-- ==== Sys2Proof/Word.lean ====
section
/-! DEFINITION. The word types of CDH26 (`00_scope.md` R9, R12): bytes, 32-bit words, the 64-bit determinant word, the 16-bit
bus address, and the two byte strings of fixed length (16 and 32 bytes). -/

namespace Sys2Proof

/-- A byte is 8 bits (R9). -/
abbrev Byte := BitVec 8

/-- A word is 32 bits (R9). -/
abbrev Word := BitVec 32

/-- The 64-bit word that holds DET (R25). -/
abbrev DWord := BitVec 64

/-- A bus address is a 16-bit byte address (R60). -/
abbrev Addr := BitVec 16

/-- A block of `BLK = 16` bytes: SALT, IV and the cipher's block (R7). Byte i of the string is element i (R12). -/
abbrev Block := Vector Byte 16

/-- A string of `KEYLEN = 32` bytes: the derived key (R7), and the draw (R186). -/
abbrev Key := Vector Byte 32

/-- `rep(0, 16)`. -/
abbrev zeroBlock : Block := Vector.replicate 16 0

/-- `rep(0, 32)`. -/
abbrev zeroKey : Key := Vector.replicate 32 0

/-- A 2 by 2 matrix, entry `mij` in row i, column j (R23). -/
structure Mat2 (α : Type) where
  /-- row 0, column 0 -/
  m00 : α
  /-- row 0, column 1 -/
  m01 : α
  /-- row 1, column 0 -/
  m10 : α
  /-- row 1, column 1 -/
  m11 : α
deriving DecidableEq, Repr

/-- The same function applied to each of the four entries. -/
def Mat2.map {α β : Type} (f : α → β) (m : Mat2 α) : Mat2 β :=
  ⟨f m.m00, f m.m01, f m.m10, f m.m11⟩

/-- The matrix whose four entries are `a`. -/
def Mat2.const {α : Type} (a : α) : Mat2 α := ⟨a, a, a, a⟩

end Sys2Proof
end

