-- ==== Sys2Proof/Config.lean ====
section
/-! DEFINITION. The constants fixed by the document (`00_scope.md` R7) and the open parameters (R8). The parameters that are
plain data form the structure `Config`; the functions and the random source are constants without a body, so that nothing can
be proved of them beyond the constraints of R8. -/

namespace Sys2Proof

namespace Const

/-- `M = 26`: the modulus and alphabet size (R7). -/
abbrev modulus : Nat := 26

/-- `FILLER = 10`: the index of the letter 'K' (R7). -/
def filler : Fin 26 := 10

/-- `BLK = 16`: the cipher block size in bytes (R7). -/
abbrev blk : Nat := 16

/-- `HDR = 32`: the frame header length in bytes, `SALTLEN + IVLEN` (R7). -/
abbrev hdr : Nat := 32

/-- `ID = 0x4344481A` (R30). -/
def id : Word := 0x4344481A#32

end Const

/-- `HILL_ORIENT` (R8, R134): the side on which the block vector stands. -/
inductive Orientation where
  /-- the block is a column: w = M · v -/
  | col
  /-- the block is a row: w = v · M -/
  | row
deriving DecidableEq, Repr

/-- The open parameters of R8 that are plain data, fixed for the machine. `EW` is fixed at 32 by R8 and is the width of `Word`.
The spec keeps them open, so every statement ranges over all of them (log entry 4). -/
structure Config where
  /-- `HILL_ORIENT` -/
  orient : Orientation
  /-- `ITER`, the iteration count of the derivation -/
  iter : Nat
  /-- `PBUF_CAP`, in bytes -/
  pbufCap : Nat
  /-- `IBUF_CAP`, in bytes -/
  ibufCap : Nat
  /-- `OBUF_CAP`, in bytes -/
  obufCap : Nat
deriving DecidableEq, Repr

/-- The column "default" of R8. -/
def Config.default : Config where
  orient := .col
  iter := 100000
  pbufCap := 1024
  ibufCap := 16384
  obufCap := 16432

/-- `BlockEnc` and `BlockDec` of R8 as ONE open parameter: for each key a permutation of the blocks (`91_not_in_source.md` N1).
It has no body: no statement can use more of it than that it is a permutation (log entry 6). -/
opaque Config.cipher : Key → Equiv.Perm Block

/-- `BlockEnc(key, block)` (R8). -/
def Config.blockEnc (k : Key) (b : Block) : Block := Config.cipher k b

/-- `BlockDec(key, block)` (R8), the inverse of `blockEnc` for each key. -/
def Config.blockDec (k : Key) (b : Block) : Block := (Config.cipher k).symm b

/-- `KDF(password, salt)` of R8 and R151 for the iteration count `iter`: total, deterministic, a function of the password, the
salt and ITER only (its `PRF` is part of it). It has no body (log entry 7). -/
opaque Config.kdf : (iter : Nat) → (password : List Byte) → (salt : Block) → Key

/-- The answers of the random source (R15, R186): the 32 bytes it gives the n-th time it is asked. It has no body: a draw is a
free value (log entry 5). -/
opaque Config.rand : (n : Nat) → Key

end Sys2Proof
end

