-- ==== Sys2Proof/Syntax.lean ====
section
/-! DEFINITION. The thirteen commands of CDH26 (`30_encoding.md` R91), one constructor per row of `spec/opcode_table.json`, and
what the host can send to the block: the four bus transactions (`20_memory.md` R60) and the reset event
(`70_reset_and_hazards.md` R240). -/

namespace Sys2Proof

/-- The thirteen commands (R91). CW1 has no operand fields (R90, R95), so no constructor has an argument. -/
inductive Instr where
  /-- no operation (R200) -/
  | nop
  /-- compute the determinant (R117) -/
  | mdet
  /-- compute the inverse matrix modulo 26 (R118) -/
  | minv
  /-- matrix-cipher encode (R136) -/
  | henc
  /-- matrix-cipher decode (R137) -/
  | hdec
  /-- derive the key (R152) -/
  | kdrv
  /-- append padding (R162) -/
  | pad
  /-- validate and remove padding (R163) -/
  | unpd
  /-- chained-block encrypt (R172) -/
  | cbce
  /-- chained-block decrypt (R173) -/
  | cbcd
  /-- encrypt a message into a frame (R183) -/
  | encr
  /-- decrypt a frame into a message (R184) -/
  | decr
  /-- zeroize secrets and buffers (R201) -/
  | clr
deriving DecidableEq, Repr

/-- The four bus transactions (R60). -/
inductive Txn where
  /-- `MemRead(addr, 4)` -/
  | read32 (addr : Addr)
  /-- `MemWrite(addr, 4, v)` -/
  | write32 (addr : Addr) (v : Word)
  /-- `MemRead(addr, 1)` -/
  | read8 (addr : Addr)
  /-- `MemWrite(addr, 1, v)` -/
  | write8 (addr : Addr) (v : Byte)
deriving DecidableEq, Repr

/-- What the outside can do to the block: a host transaction, or a reset between two of them (R240). -/
inductive Event where
  /-- a host transaction reaches the block -/
  | bus (t : Txn)
  /-- the reset input, or power-on -/
  | reset
deriving DecidableEq, Repr

/-- How a transaction ends (R60): OK, with the value for a read, or BUSERR. -/
inductive Reply where
  /-- OK to a write -/
  | ok
  /-- OK to a 32-bit read, with its value -/
  | word (v : Word)
  /-- OK to a byte read, with its value -/
  | byte (v : Byte)
  /-- the block refused the transaction -/
  | busErr
deriving DecidableEq, Repr

end Sys2Proof
end

