-- ==== Sys2Proof/WellFormed.lean ====
section
/-! DEFINITION. The checks on terms: an instruction (nothing to check, CW1 has no fields) and a configuration (the constraints
of `00_scope.md` R8 and `10_state.md` R37). -/

namespace Sys2Proof

/-- Every instruction is well formed: no command has a field that could be out of range (`30_encoding.md` R90, R95). -/
def Instr.wf (i : Instr) : Bool :=
  match i with
  | .nop | .mdet | .minv | .henc | .hdec | .kdrv | .pad | .unpd | .cbce | .cbcd | .encr | .decr | .clr => true

/-- `ITER >= 100000` (R8), and below 2^32, since register ITER reads it (R37). -/
def Config.iterOk (c : Config) : Bool := 100000 ≤ c.iter && c.iter < 2 ^ 32

/-- `0 < PBUF_CAP <= 1024` (R8). -/
def Config.pbufOk (c : Config) : Bool := 0 < c.pbufCap && c.pbufCap ≤ 1024

/-- `0 < IBUF_CAP <= 16384` (R8). -/
def Config.ibufOk (c : Config) : Bool := 0 < c.ibufCap && c.ibufCap ≤ 16384

/-- `IBUF_CAP + 48 <= OBUF_CAP <= 32768` (R8). -/
def Config.obufOk (c : Config) : Bool := c.ibufCap + 48 ≤ c.obufCap && c.obufCap ≤ 32768

/-- A configuration meets every constraint of R8. -/
def Config.wf (c : Config) : Bool := c.iterOk && c.pbufOk && c.ibufOk && c.obufOk

end Sys2Proof
end

