-- ==== Sys2Proof/Decode.lean ====
section
/-! DEFINITION. Command words of format CW1 (`30_encoding.md` R90 to R94): the decoder, total on all words and rejecting by
name; after it the encoder, and the function by which the host asks what a row's word decodes to. -/

namespace Sys2Proof

/-- Why a word is no command (R92, R93). Both reasons lead to IllegalCommand. -/
inductive DecodeError where
  /-- `w[31:8] != 0`: a reserved bit is set, whatever the opcode byte -/
  | reservedBits
  /-- the reserved bits are 0 and the opcode is none of the thirteen -/
  | unusedOpcode
deriving DecidableEq, Repr

/-- The field `op`, bits 7:0 (R90). -/
def opField (w : Word) : Byte := w.extractLsb' 0 8

/-- The field `rsv`, bits 31:8 (R90). -/
def rsvField (w : Word) : BitVec 24 := w.extractLsb' 8 24

/-- The opcode map (R91): which command an opcode byte selects. -/
def instrOfOpcode (op : Byte) : Option Instr :=
  match op.toNat with
  | 0x00 => some .nop
  | 0x01 => some .mdet
  | 0x02 => some .minv
  | 0x10 => some .henc
  | 0x11 => some .hdec
  | 0x20 => some .kdrv
  | 0x30 => some .pad
  | 0x31 => some .unpd
  | 0x40 => some .cbce
  | 0x41 => some .cbcd
  | 0x50 => some .encr
  | 0x51 => some .decr
  | 0x7F => some .clr
  | _ => none

/-- Decoding a word written to CMD (R92). -/
def decode (w : Word) : Except DecodeError Instr :=
  if rsvField w ≠ 0 then .error .reservedBits
  else
    match instrOfOpcode (opField w) with
    | some i => .ok i
    | none => .error .unusedOpcode

/-- The opcode byte of a command, column "op" of R91. -/
def opcodeOf (i : Instr) : Byte :=
  match i with
  | .nop => 0x00#8
  | .mdet => 0x01#8
  | .minv => 0x02#8
  | .henc => 0x10#8
  | .hdec => 0x11#8
  | .kdrv => 0x20#8
  | .pad => 0x30#8
  | .unpd => 0x31#8
  | .cbce => 0x40#8
  | .cbcd => 0x41#8
  | .encr => 0x50#8
  | .decr => 0x51#8
  | .clr => 0x7F#8

/-- The command word: `0x000000` followed by the opcode byte (R91). -/
def encode (i : Instr) : Word := 0#24 ++ opcodeOf i

/-- The word an instruction of `nbits` bits and bits `w` makes on the bus: one 32-bit word, the bits from `nbits` up 0. -/
def tableWord (nbits w : Nat) : Word := BitVec.ofNat 32 (w % 2 ^ nbits)

/-- The instruction the decoder reads from a row of the opcode table; none where it refuses. -/
def decodeTableWord (nbits w : Nat) : Option Instr :=
  match decode (tableWord nbits w) with
  | .ok i => some i
  | .error _ => none

end Sys2Proof
end

