-- ==== Sys2Proof/Machine/State.lean ====
section
/-! DEFINITION. The state of CDH26 (`10_state.md` R20), the error codes (`60_exceptions.md` R211), the two kinds of stop, and
the state after reset (R45, R241). State is plain data. -/

namespace Sys2Proof.Machine

/-- A byte buffer: the listed bytes by offset, offsets strictly rising, no listed byte 0. An unlisted offset reads as 0, the
reset contents (R45). -/
abbrev Memory := List Host.Cell

/-- The names of the error codes 0 to 5 (R211). -/
inductive ErrorCode where
  /-- code 0: success -/
  | success
  /-- code 1: the key matrix is not invertible modulo 26 (R212) -/
  | invalidKey
  /-- code 2: a length is not what the command needs (R213) -/
  | malformedInput
  /-- code 3: the padding is inconsistent (R215) -/
  | invalidPadding
  /-- code 4: no key has been derived (R218) -/
  | noKey
  /-- code 5: the word is no command (R219) -/
  | illegalCommand
deriving DecidableEq, Repr

/-- The machine has no fault. A failing command completes with an error code (R210, R216), a refused transaction answers
BUSERR (R69, R222), and every host transaction has exactly one outcome (`93_implementation_defined.md`, end of part 1). So this
type has no constructor, and nobody raises one; safe. -/
inductive Fault where
deriving DecidableEq, Repr

/-- Why a step gives no meaning. -/
inductive Refusal where
  /-- Raised only by an arm of `exec` for a command that has no meaning yet. No arm of this model raises it. Safe: a run
  stops where the hardware would go on. -/
  | notModelled (mnemonic : String)
deriving DecidableEq, Repr

/-- The complete architectural state (R20), then the four fields of the model that stand for what the spec keeps outside the
block (R21): its parameters, its random source and its host. -/
structure State where
  /-- `K[i][j]`: the key matrix, 32-bit two's complement words (R23) -/
  k : Mat2 Word
  /-- `DET`: the exact determinant, 64-bit two's complement (R25) -/
  det : DWord
  /-- `DETV`: DET and DETM are valid for the current K (R25) -/
  detv : Bool
  /-- `DETM`: `mod26(DET)` (R26) -/
  detm : Fin 26
  /-- `DINV`: `inv26(DETM)`, or 0 when there is none (R27) -/
  dinv : Fin 26
  /-- `KI[i][j]`: the inverse of K modulo 26 (R28) -/
  ki : Mat2 (Fin 26)
  /-- `KIV`: KI and DINV are the inverse for the current K (R28) -/
  kiv : Bool
  /-- `PBUF`: the password (R41) -/
  pbuf : Memory
  /-- `PLEN`: the password length (R36) -/
  plen : Nat
  /-- `IBUF`: the input message (R42) -/
  ibuf : Memory
  /-- `ILEN`: the input length (R34) -/
  ilen : Nat
  /-- `OBUF`: the output message (R43) -/
  obuf : Memory
  /-- `OLEN`: the output length (R35) -/
  olen : Nat
  /-- `SALT` (R38) -/
  salt : Block
  /-- `IV` (R39) -/
  iv : Block
  /-- `KEY`: the derived key, hidden (R40) -/
  key : Key
  /-- `KEYV`: KEY holds a derived key (R40) -/
  keyv : Bool
  /-- `DONE`: a command has completed since reset (R32) -/
  done : Bool
  /-- `ERR`: the last command ended in error (R32) -/
  err : Bool
  /-- `ECODE`: the error code of the last command (R32, R211) -/
  ecode : ErrorCode
  /-- `ESTK`: error codes seen since last cleared. Bit c of the register, c in 1 to 5, is element c - 1 here (R33). -/
  estk : BitVec 5
  /-- MODEL: the parameters of R8 that are plain data; nothing changes them (log entry 4) -/
  cfg : Config
  /-- MODEL: how many times the random source has answered (log entry 5) -/
  draws : Nat
  /-- MODEL: the host events not yet delivered, the next one first (R253; log entry 1) -/
  inbox : List Event
  /-- MODEL: the replies the host has received, the newest first (R253; log entry 3) -/
  replies : List Reply
deriving DecidableEq, Repr

/-- The state after reset: every piece of state of R20 is zero (R45, R241). The model's own fields: the default parameters of R8
(log entry 4), no draw made, no event waiting, no reply given. -/
def State.reset : State where
  k := Mat2.const 0
  det := 0
  detv := false
  detm := 0
  dinv := 0
  ki := Mat2.const 0
  kiv := false
  pbuf := []
  plen := 0
  ibuf := []
  ilen := 0
  obuf := []
  olen := 0
  salt := zeroBlock
  iv := zeroBlock
  key := zeroKey
  keyv := false
  done := false
  err := false
  ecode := .success
  estk := 0
  cfg := Config.default
  draws := 0
  inbox := []
  replies := []

end Sys2Proof.Machine
end

