-- ==== Sys2Proof/Machine/Flags.lean ====
section
/-! DEFINITION. The status registers (`10_state.md` R32, R33; `60_exceptions.md` R211): the numbers of the error codes, the
layout of STATUS and ESTK, and the write-one-to-clear of ESTK. -/

namespace Sys2Proof.Machine

/-- The number of an error code (R211). -/
def errorNumber (c : ErrorCode) : BitVec 4 :=
  match c with
  | .success => 0
  | .invalidKey => 1
  | .malformedInput => 2
  | .invalidPadding => 3
  | .noKey => 4
  | .illegalCommand => 5

/-- `ERR` after a completion: 1 when the code is not 0 (R216). -/
def isError (c : ErrorCode) : Bool := errorNumber c ≠ 0

/-- The ESTK bit a code sets, as a mask over bits 1 to 5; none for success (R33, R216). -/
def stickyBit (c : ErrorCode) : BitVec 5 :=
  match c with
  | .success => 0b00000
  | .invalidKey => 0b00001
  | .malformedInput => 0b00010
  | .invalidPadding => 0b00100
  | .noKey => 0b01000
  | .illegalCommand => 0b10000

/-- The STATUS word (R32), from bit 31 down: reserved 0, KEYV, KIV, DETV, ECODE, reserved 0, ERR, DONE. -/
def statusWord (s : State) : Word :=
  0#21 ++ BitVec.ofBool s.keyv ++ BitVec.ofBool s.kiv ++ BitVec.ofBool s.detv ++ errorNumber s.ecode ++ 0#2 ++
    BitVec.ofBool s.err ++ BitVec.ofBool s.done

/-- The ESTK word (R33): bits 5 to 1 the sticky bits, all others 0. -/
def stickyWord (s : State) : Word := 0#26 ++ s.estk ++ 0#1

/-- ESTK after a host write of `w`: each bit c in 1 to 5 with `w[c] = 1` is cleared (R33). -/
def stickyClear (estk : BitVec 5) (w : Word) : BitVec 5 := estk &&& ~~~(w.extractLsb' 1 5)

end Sys2Proof.Machine
end

