-- ==== Sys2Proof/Machine/Arith.lean ====
section
/-! DEFINITION. Arithmetic modulo 26 and 2 by 2 integer matrices (`00_scope.md` R10, R11; `40_matrix.md` R110 to R116). Integers
are unbounded, as R9 and R110 say. -/

namespace Sys2Proof.Machine

/-- The floored remainder modulo 26 (R10): the r in [0, 26) with `z - r` divisible by 26. -/
def mod26 (z : Int) : Fin 26 :=
  ⟨(z % 26).toNat, by omega⟩

/-- A residue as an integer. -/
def residue (d : Fin 26) : Int := d.val

/-- `gcd(d, 26) = 1` (R11). -/
def isUnit26 (d : Fin 26) : Bool := Nat.gcd d.val 26 == 1

/-- The table of R115; a non-unit has no row. -/
def inv26 (d : Fin 26) : Option (Fin 26) :=
  match d.val with
  | 1 => some 1
  | 3 => some 9
  | 5 => some 21
  | 7 => some 15
  | 9 => some 3
  | 11 => some 19
  | 15 => some 7
  | 17 => some 23
  | 19 => some 11
  | 21 => some 5
  | 23 => some 17
  | 25 => some 25
  | _ => none

/-- `det2(K) = K[0][0] * K[1][1] - K[0][1] * K[1][0]` (R111). -/
def det2 (m : Mat2 Int) : Int := m.m00 * m.m11 - m.m01 * m.m10

/-- `adj2(K) = [[K[1][1], -K[0][1]], [-K[1][0], K[0][0]]]` (R113). -/
def adj2 (m : Mat2 Int) : Mat2 Int := ⟨m.m11, -m.m01, -m.m10, m.m00⟩

/-- `minv26(K)`: fails, or returns `(dm, di, KI)` (R114). -/
def minv26 (m : Mat2 Int) : Option (Fin 26 × Fin 26 × Mat2 (Fin 26)) :=
  let dm := mod26 (det2 m)
  if isUnit26 dm then
    match inv26 dm with
    | some di => some (dm, di, (adj2 m).map fun a => mod26 (residue di * a))
    | none => none
  else none

/-- The key matrix is valid (R119). -/
def validKey (m : Mat2 Int) : Bool := isUnit26 (mod26 (det2 m))

end Sys2Proof.Machine
end

