-- ==== Sys2Proof/Machine/Crypt.lean ====
section
/-! DEFINITION. The byte-string functions of the pipeline: padding (`43_padding.md` R160, R161), chained blocks (`44_cbc.md`
R171, R174), the default derivation (`42_kdf.md` R153) and the frame (`45_pipeline.md` R180). Each takes the open functions of
R8 as arguments, so that it can be tested with the toy parameters of `95_test_vectors.md`. -/

namespace Sys2Proof.Machine

/-- The first 16 bytes of a string as a block; every caller passes at least 16. -/
def blockOf (l : List Byte) : Block := Vector.ofFn fun i : Fin 16 => l.getD i.val 0

/-- The first 32 bytes of a string as a key; every caller passes at least 32. -/
def keyOf (l : List Byte) : Key := Vector.ofFn fun i : Fin 32 => l.getD i.val 0

/-- The bytewise exclusive-or of two blocks (R12). -/
def xorBlock (a b : Block) : Block := Vector.ofFn fun i : Fin 16 => a[i] ^^^ b[i]

/-- The block `x[16i .. 16(i+1))`. -/
def blockAt (x : List Byte) (i : Nat) : Block := blockOf (x.drop (16 * i))

/-- The whole 16-byte blocks of a string, in order: `X_1`, `X_2`, ... of R171. -/
def blocksOf (x : List Byte) : List Block := (List.range (x.length / 16)).map (blockAt x)

/-- The concatenation of blocks as a byte string. -/
def joinBlocks (bs : List Block) : List Byte := bs.flatMap Vector.toList

/-- The pad length `16 - (len(s) mod 16)`, in [1, 16] (R160). -/
def padLen (s : List Byte) : Nat := 16 - s.length % 16

/-- `pad16(s)` (R160). -/
def pad16 (s : List Byte) : List Byte :=
  s ++ List.replicate (padLen s) (BitVec.ofNat 8 (padLen s))

/-- `unpad16(t)` (R161); none where it fails with InvalidPadding. -/
def unpad16 (t : List Byte) : Option (List Byte) :=
  let p := t.getLastD 0
  if p.toNat = 0 ∨ 16 < p.toNat then none
  else if (t.drop (t.length - p.toNat)).all (· == p) then some (t.take (t.length - p.toNat))
  else none

/-- The chain of R171 from the previous ciphertext block on. -/
def cbcEncBlocks (enc : Block → Block) : (prev : Block) → List Block → List Block
  | _, [] => []
  | prev, x :: xs => enc (xorBlock x prev) :: cbcEncBlocks enc (enc (xorBlock x prev)) xs

/-- The chain of R174 from the previous ciphertext block on. -/
def cbcDecBlocks (dec : Block → Block) : (prev : Block) → List Block → List Block
  | _, [] => []
  | prev, y :: ys => xorBlock (dec y) prev :: cbcDecBlocks dec y ys

/-- `cbc_enc(k, iv, x)` with `enc = BlockEnc(k, ·)` (R171). -/
def cbcEnc (enc : Block → Block) (iv : Block) (x : List Byte) : List Byte :=
  joinBlocks (cbcEncBlocks enc iv (blocksOf x))

/-- `cbc_dec(k, iv, y)` with `dec = BlockDec(k, ·)` (R174). -/
def cbcDec (dec : Block → Block) (iv : Block) (y : List Byte) : List Byte :=
  joinBlocks (cbcDecBlocks dec iv (blocksOf y))

/-- `INT32BE(i)`: i as 4 bytes, most significant byte first (R153). -/
def int32be (i : Nat) : List Byte :=
  [BitVec.ofNat 8 (i / 2 ^ 24), BitVec.ofNat 8 (i / 2 ^ 16), BitVec.ofNat 8 (i / 2 ^ 8), BitVec.ofNat 8 i]

/-- Bytewise exclusive-or of two strings of equal length (R12). -/
def xorBytes (a b : List Byte) : List Byte := List.zipWith (· ^^^ ·) a b

/-- The loop "repeat n times" of R153: `U := PRF(P, U)`, `T := T xor U`; returns T. -/
def pbkdf2Loop (prf : List Byte → List Byte → List Byte) (pw : List Byte) : (n : Nat) → (u t : List Byte) → List Byte
  | 0, _, t => t
  | n + 1, u, t => pbkdf2Loop prf pw n (prf pw u) (xorBytes t (prf pw u))

/-- `T_i` of R153, for i from 1. -/
def pbkdf2Block (prf : List Byte → List Byte → List Byte) (pw salt : List Byte) (c i : Nat) : List Byte :=
  let u := prf pw (salt ++ int32be i)
  pbkdf2Loop prf pw (c - 1) u u

/-- `PBKDF2(PRF, P, S, c, dkLen)` (R153), `hlen` being the output length of `prf`: `l = ceil(dkLen / HLEN)` blocks. -/
def pbkdf2 (prf : List Byte → List Byte → List Byte) (hlen : Nat) (pw salt : List Byte) (c dkLen : Nat) : List Byte :=
  ((List.range ((dkLen + hlen - 1) / hlen)).flatMap fun i => pbkdf2Block prf pw salt c (i + 1)).take dkLen

/-- The default instantiation of `KDF` (R153) over any `PRF`. The machine uses the open `Config.kdf`, of which this is the
spec's recommended instance; no command depends on it (log entry 7). -/
def defaultKdf (prf : List Byte → List Byte → List Byte) (hlen iter : Nat) (pw : List Byte) (salt : Block) : Key :=
  keyOf (pbkdf2 prf hlen pw salt.toList iter 32)

/-- The salt of a draw: its bytes 0 to 15 (R183). -/
def drawSalt (rnd : Key) : Block := blockOf rnd.toList

/-- The IV of a draw: its bytes 16 to 31 (R183). -/
def drawIv (rnd : Key) : Block := blockOf (rnd.toList.drop 16)

/-- The salt of a frame: its bytes 0 to 15 (R180). -/
def frameSalt (f : List Byte) : Block := blockOf f

/-- The IV of a frame: its bytes 16 to 31 (R180). -/
def frameIv (f : List Byte) : Block := blockOf (f.drop 16)

/-- The ciphertext of a frame: its bytes from 32 on (R180). -/
def frameBody (f : List Byte) : List Byte := f.drop Const.hdr

/-- The frame `salt ‖ iv ‖ cbc_enc(KDF(password, salt), iv, pad16(x))` (R183). -/
def sealFrame (kdf : List Byte → Block → Key) (enc : Key → Block → Block) (pw : List Byte) (salt iv : Block)
    (x : List Byte) : List Byte :=
  salt.toList ++ iv.toList ++ cbcEnc (enc (kdf pw salt)) iv (pad16 x)

/-- The decrypted and still padded text of a frame (R184). -/
def openFrame (kdf : List Byte → Block → Key) (dec : Key → Block → Block) (pw : List Byte) (f : List Byte) : List Byte :=
  cbcDec (dec (kdf pw (frameSalt f))) (frameIv f) (frameBody f)

end Sys2Proof.Machine
end

