-- ==== Sys2Proof/Machine/Memory.lean ====
section
/-! DEFINITION. The operations over a byte buffer (`10_state.md` R41 to R43): the read and the write of one byte, the read and
the write of a byte string, the canonical form. A buffer is keyed by the offset from its base. -/

namespace Sys2Proof.Machine

/-- What an offset that is not listed reads as: the reset contents, 0 (R45). -/
def Memory.unlisted : Byte := 0

/-- The byte at offset `a`. -/
def Memory.read : Memory → Nat → Byte
  | [], _ => Memory.unlisted
  | (b, w) :: m, a => if a = b then w else Memory.read m a

/-- Store `v` at offset `a`, keeping the canonical form. -/
def Memory.write : Memory → Nat → Byte → Memory
  | [], a, v => if v = Memory.unlisted then [] else [(a, v)]
  | (b, w) :: m, a, v =>
    if a < b then (if v = Memory.unlisted then (b, w) :: m else (a, v) :: (b, w) :: m)
    else if a = b then (if v = Memory.unlisted then m else (a, v) :: m)
    else (b, w) :: Memory.write m a v

/-- `s[a..a+n)`: the `n` bytes from offset `a` (R12). -/
def Memory.readBytes (m : Memory) (a n : Nat) : List Byte :=
  (List.range n).map fun i => Memory.read m (a + i)

/-- `BUF[a..a+len(bs)) <- bs` (R14). -/
def Memory.writeBytes : Memory → Nat → List Byte → Memory
  | m, _, [] => m
  | m, a, b :: bs => Memory.writeBytes (Memory.write m a b) (a + 1) bs

/-- The canonical form: offsets strictly rising, no listed byte equal to what an unlisted offset reads as. -/
def Memory.wf : Memory → Bool
  | [] => true
  | (a, v) :: m => v ≠ Memory.unlisted && m.all (fun c => a < c.1) && Memory.wf m

/-- Every listed offset lies below `cap`: the buffer has no byte at or beyond its capacity (R41 to R43). -/
def Memory.below (cap : Nat) (m : Memory) : Bool := m.all fun c => c.1 < cap

end Sys2Proof.Machine
end

