-- ==== Sys2Proof/Machine/Operands.lean ====
section
/-! DEFINITION. The implicit operands of the commands (`30_encoding.md` R91, R95; `20_memory.md` R85): each is read from named
registers or buffers. -/

namespace Sys2Proof.Machine

/-- The key matrix as integers: `sint32` of the four K registers (R9, R23). -/
def keyMatrix (s : State) : Mat2 Int := s.k.map BitVec.toInt

/-- The input message `IBUF[0..ILEN)` (R42, R85). -/
def message (s : State) : List Byte := Memory.readBytes s.ibuf 0 s.ilen

/-- The password `PBUF[0..PLEN)` (R41, R85). -/
def password (s : State) : List Byte := Memory.readBytes s.pbuf 0 s.plen

/-- The output message `OBUF[0..OLEN)` (R35). -/
def output (s : State) : List Byte := Memory.readBytes s.obuf 0 s.olen

/-- The 32 bytes the next `draw()` returns: a free value (R186; log entry 5). -/
def nextDraw (s : State) : Key := Config.rand s.draws

/-- `KDF(PBUF[0..PLEN), salt)` with the block's ITER (R151). -/
def deriveKey (s : State) (salt : Block) : Key := Config.kdf s.cfg.iter (password s) salt

/-- `ILEN = 0 or ILEN mod 16 != 0`: not a positive multiple of 16 (R213). -/
def lengthUnaligned (s : State) : Bool := s.ilen = 0 || s.ilen % 16 ≠ 0

/-- `ILEN <= 32 or (ILEN - 32) mod 16 != 0`: no well-formed frame (R184, R213). -/
def frameMalformed (s : State) : Bool := s.ilen ≤ 32 || (s.ilen - 32) % 16 ≠ 0

end Sys2Proof.Machine
end

