-- ==== Sys2Proof/Machine/Ops.lean ====
section
/-! DEFINITION. The shared operations over the state: completing a command and ending it in an error (`60_exceptions.md` R216,
R217), clearing and writing the output (`00_scope.md` R14, R100), writing the matrix registers (`10_state.md` R24 to R28) and
the key, salt and IV registers (R38 to R40), a draw (R186), a reply (R60) and a reset (R240). -/

namespace Sys2Proof.Machine

/-- `Complete(c)`, the last action of every command (R216). -/
def complete (c : ErrorCode) (s : State) : State :=
  { s with done := true, err := isError c, ecode := c, estk := s.estk ||| stickyBit c }

/-- `raise <Error>`: the one way a command ends in an error. It keeps what the command has written, and completes with the code
(R217, R224). Nothing is saved, no control is transferred, and there is no return (R224, R225). -/
def raiseError (c : ErrorCode) (s : State) : State := complete c s

/-- `ClearOut()`: every byte of OBUF and OLEN become 0 (R14, R100). -/
def clearOut (s : State) : State := { s with obuf := [], olen := 0 }

/-- `OBUF[0..len(r)) <- r ; OLEN <- len(r)` (R85). -/
def writeOut (r : List Byte) (s : State) : State :=
  { s with obuf := Memory.writeBytes s.obuf 0 r, olen := r.length }

/-- The clearing of every value derived from K by a host write to a K register (R24). -/
def clearDerived (s : State) : State :=
  { s with det := 0, detv := false, detm := 0, dinv := 0, ki := Mat2.const 0, kiv := false }

/-- `DET <- d ; DETM <- mod26(d) ; DETV <- 1` with `d = det2(K)` (R25, R26, R117). -/
def writeDet (s : State) : State :=
  { s with
    det := BitVec.ofInt 64 (det2 (keyMatrix s)), detm := mod26 (det2 (keyMatrix s)), detv := true }

/-- The first lines of MINV and HDEC: DET, DETM and DETV, then DINV, KI and KIV, from `minv26(K)` or all zero (R118, R137). -/
def writeInverse (s : State) : State :=
  match minv26 (keyMatrix s) with
  | some (_, di, m) => { writeDet s with dinv := di, ki := m, kiv := true }
  | none => { writeDet s with dinv := 0, ki := Mat2.const 0, kiv := false }

/-- `SALT <- salt ; IV <- iv` (R38, R39). -/
def loadSaltIv (salt iv : Block) (s : State) : State := { s with salt := salt, iv := iv }

/-- `KEY <- k ; KEYV <- 1` (R40, R152). -/
def loadKey (k : Key) (s : State) : State := { s with key := k, keyv := true }

/-- `KEY <- rep(0, 32) ; KEYV <- 0` (R40, R188). -/
def dropKey (s : State) : State := { s with key := zeroKey, keyv := false }

/-- CLR's clearing of the password and both buffers with their lengths (R201). -/
def clearBuffers (s : State) : State :=
  { s with pbuf := [], plen := 0, ibuf := [], ilen := 0, obuf := [], olen := 0 }

/-- `draw()` as an effect: the random source has answered once more (R186; log entry 5). -/
def countDraw (s : State) : State := { s with draws := s.draws + 1 }

/-- A transaction ends with its reply (R60). -/
def answer (r : Reply) (s : State) : State := { s with replies := r :: s.replies }

/-- The reset event: the spec's state becomes that of R45; the parameters, the random source's count and the host's side are
no state of the block and stay (R21, R241; log entry 9). -/
def resetBlock (s : State) : State :=
  { State.reset with cfg := s.cfg, draws := s.draws, inbox := s.inbox, replies := s.replies }

end Sys2Proof.Machine
end

