-- ==== Sys2Proof/Machine/Bus.lean ====
section
/-! DEFINITION. The host bus (`20_memory.md` R60 to R74): the address map, and the effect of every transaction but the write to
CMD. None stands for BUSERR. -/

namespace Sys2Proof.Machine

/-- The word registers (`10_state.md` R46). -/
inductive Reg where
  | id
  | cmd
  | status
  | estk
  | k00
  | k01
  | k10
  | k11
  | detLo
  | detHi
  | detm
  | dinv
  | ki00
  | ki01
  | ki10
  | ki11
  | ilen
  | olen
  | plen
  | iter
  | icap
  | ocap
  | pcap
deriving DecidableEq, Repr

/-- Which register a 4-byte access at an address reaches (R46, R61). None is a misaligned address, a reserved offset, or an
address at or above 0x0100 (R64, R65, R68). -/
def regAt (addr : Addr) : Option Reg :=
  match addr.toNat with
  | 0x00 => some .id
  | 0x04 => some .cmd
  | 0x08 => some .status
  | 0x0C => some .estk
  | 0x10 => some .k00
  | 0x14 => some .k01
  | 0x18 => some .k10
  | 0x1C => some .k11
  | 0x20 => some .detLo
  | 0x24 => some .detHi
  | 0x28 => some .detm
  | 0x2C => some .dinv
  | 0x30 => some .ki00
  | 0x34 => some .ki01
  | 0x38 => some .ki10
  | 0x3C => some .ki11
  | 0x40 => some .ilen
  | 0x44 => some .olen
  | 0x48 => some .plen
  | 0x4C => some .iter
  | 0x50 => some .icap
  | 0x54 => some .ocap
  | 0x58 => some .pcap
  | _ => none

/-- A byte location of the address map (R61), by its offset from the base. -/
inductive ByteLoc where
  /-- SALT byte i (R38) -/
  | salt (i : Fin 16)
  /-- IV byte i (R39) -/
  | iv (i : Fin 16)
  /-- PBUF offset o, below PBUF_CAP (R41) -/
  | pbuf (o : Nat)
  /-- IBUF offset o, below IBUF_CAP (R42) -/
  | ibuf (o : Nat)
  /-- OBUF offset o, below OBUF_CAP (R43) -/
  | obuf (o : Nat)
deriving DecidableEq, Repr

/-- Which byte location a 1-byte access at an address reaches (R61). None is an address below 0x0100 or an unmapped one
(R64, R65, R68). The windows do not overlap under the constraints of R8. -/
def byteAt (c : Config) (addr : Addr) : Option ByteLoc :=
  let a := addr.toNat
  if h : 0x0100 ≤ a ∧ a < 0x0110 then some (.salt ⟨a - 0x0100, by omega⟩)
  else if h : 0x0110 ≤ a ∧ a < 0x0120 then some (.iv ⟨a - 0x0110, by omega⟩)
  else if 0x0400 ≤ a ∧ a < 0x0400 + c.pbufCap then some (.pbuf (a - 0x0400))
  else if 0x4000 ≤ a ∧ a < 0x4000 + c.ibufCap then some (.ibuf (a - 0x4000))
  else if 0x8000 ≤ a ∧ a < 0x8000 + c.obufCap then some (.obuf (a - 0x8000))
  else none

/-- The byte the block STORES at a location. The bus does not show all of it: PBUF reads as 0 (R41). -/
def storedByte (s : State) (l : ByteLoc) : Byte :=
  match l with
  | .salt i => s.salt[i]
  | .iv i => s.iv[i]
  | .pbuf o => Memory.read s.pbuf o
  | .ibuf o => Memory.read s.ibuf o
  | .obuf o => Memory.read s.obuf o

/-- A residue on the bus: bits 4:0, the others 0 (R26 to R28). -/
def residueWord (d : Fin 26) : Word := BitVec.ofNat 32 d.val

/-- The value of a word register (R62). -/
def readReg (r : Reg) (s : State) : Word :=
  match r with
  | .id => Const.id
  | .cmd => 0
  | .status => statusWord s
  | .estk => stickyWord s
  | .k00 => s.k.m00
  | .k01 => s.k.m01
  | .k10 => s.k.m10
  | .k11 => s.k.m11
  | .detLo => s.det.extractLsb' 0 32
  | .detHi => s.det.extractLsb' 32 32
  | .detm => residueWord s.detm
  | .dinv => residueWord s.dinv
  | .ki00 => residueWord s.ki.m00
  | .ki01 => residueWord s.ki.m01
  | .ki10 => residueWord s.ki.m10
  | .ki11 => residueWord s.ki.m11
  | .ilen => BitVec.ofNat 32 s.ilen
  | .olen => BitVec.ofNat 32 s.olen
  | .plen => BitVec.ofNat 32 s.plen
  | .iter => BitVec.ofNat 32 s.cfg.iter
  | .icap => BitVec.ofNat 32 s.cfg.ibufCap
  | .ocap => BitVec.ofNat 32 s.cfg.obufCap
  | .pcap => BitVec.ofNat 32 s.cfg.pbufCap

/-- `MemRead(addr, 4)` (R62, R64, R65). -/
def busRead32 (addr : Addr) (s : State) : Option Word :=
  (regAt addr).map fun r => readReg r s

/-- `MemRead(addr, 1)` (R66, R68): a PBUF location gives 0, not the stored byte. -/
def busRead8 (addr : Addr) (s : State) : Option Byte :=
  (byteAt s.cfg addr).map fun l =>
    match l with
    | .pbuf _ => 0
    | .salt _ | .iv _ | .ibuf _ | .obuf _ => storedByte s l

/-- A word write to a register other than CMD (R63, R74). A read-only register ignores it. CMD stores nothing (R31); its
command is run by `runTxn`. -/
def writeReg (r : Reg) (v : Word) (s : State) : Option State :=
  match r with
  | .k00 => some { clearDerived s with k := { s.k with m00 := v } }
  | .k01 => some { clearDerived s with k := { s.k with m01 := v } }
  | .k10 => some { clearDerived s with k := { s.k with m10 := v } }
  | .k11 => some { clearDerived s with k := { s.k with m11 := v } }
  | .ilen => if v.toNat ≤ s.cfg.ibufCap then some { s with ilen := v.toNat } else none
  | .plen => if v.toNat ≤ s.cfg.pbufCap then some { s with plen := v.toNat } else none
  | .estk => some { s with estk := stickyClear s.estk v }
  | .cmd => some s
  | .id | .status | .detLo | .detHi | .detm | .dinv | .ki00 | .ki01 | .ki10 | .ki11 | .olen | .iter | .icap | .ocap
  | .pcap => some s

/-- `MemWrite(addr, 4, v)` but for CMD (R63 to R65). -/
def busWrite32 (addr : Addr) (v : Word) (s : State) : Option State :=
  (regAt addr).bind fun r => writeReg r v s

/-- `MemWrite(addr, 1, v)` (R67, R68). OBUF ignores it. -/
def busWrite8 (addr : Addr) (v : Byte) (s : State) : Option State :=
  (byteAt s.cfg addr).map fun l =>
    match l with
    | .salt i => { s with salt := s.salt.set i v }
    | .iv i => { s with iv := s.iv.set i v }
    | .pbuf o => { s with pbuf := Memory.write s.pbuf o v }
    | .ibuf o => { s with ibuf := Memory.write s.ibuf o v }
    | .obuf _ => s

end Sys2Proof.Machine
end

