-- ==== Sys2Proof/Machine/Cbc.lean ====
section
/-! DEFINITION. The chained-block engine family: CBCE and CBCD (`44_cbc.md` R172, R173). -/

namespace Sys2Proof.Machine

/-- CBCE: chained-block encrypt with KEY and IV, which stay as they are (R172). The key is judged first, then the length. -/
def execCbce (s : State) : Host.Outcome State Fault Refusal :=
  .next
    (if s.keyv = false then raiseError .noKey (clearOut s)
     else if lengthUnaligned s then raiseError .malformedInput (clearOut s)
     else complete .success (writeOut (cbcEnc (Config.blockEnc s.key) s.iv (message s)) (clearOut s)))

/-- CBCD: chained-block decrypt with KEY and IV, which stay as they are (R173). The checks are those of CBCE. -/
def execCbcd (s : State) : Host.Outcome State Fault Refusal :=
  .next
    (if s.keyv = false then raiseError .noKey (clearOut s)
     else if lengthUnaligned s then raiseError .malformedInput (clearOut s)
     else complete .success (writeOut (cbcDec (Config.blockDec s.key) s.iv (message s)) (clearOut s)))

end Sys2Proof.Machine
end

