-- ==== Sys2Proof/Machine/Control.lean ====
section
/-! DEFINITION. The control family: NOP and CLR (`46_control.md` R200, R201). -/

namespace Sys2Proof.Machine

/-- NOP: only `Complete(0)` (R200). -/
def execNop (s : State) : Host.Outcome State Fault Refusal :=
  .next (complete .success s)

/-- CLR: zeroize key, salt, IV, password and both buffers (R201). The matrix unit and ESTK are unchanged. -/
def execClr (s : State) : Host.Outcome State Fault Refusal :=
  .next (complete .success (clearBuffers (loadSaltIv zeroBlock zeroBlock (dropKey s))))

end Sys2Proof.Machine
end

