-- ==== Sys2Proof/Machine/Text.lean ====
section
/-! DEFINITION. The steps of the alphabetic matrix cipher on byte strings (`00_scope.md` R13; `41_hill_cipher.md` R130 to R135). -/

namespace Sys2Proof.Machine

/-- `idx(b)` where `is_letter(b)` holds, none elsewhere: ASCII letters of either case (R13). -/
def letterIndex (b : Byte) : Option (Fin 26) :=
  if h : 0x41 ≤ b.toNat ∧ b.toNat ≤ 0x5A then some ⟨b.toNat - 0x41, by omega⟩
  else if h : 0x61 ≤ b.toNat ∧ b.toNat ≤ 0x7A then some ⟨b.toNat - 0x61, by omega⟩
  else none

/-- `chr26(i) = 0x41 + i` (R13, R135). -/
def chr26 (i : Fin 26) : Byte := BitVec.ofNat 8 (0x41 + i.val)

/-- `strip(s)`: the indices of the letters of `s`, in order; every other byte is dropped (R13, R131). -/
def strip (s : List Byte) : List (Fin 26) := s.filterMap letterIndex

/-- One filler index is appended when the length is odd (R132). -/
def fill (s : List (Fin 26)) : List (Fin 26) :=
  if s.length % 2 = 1 then s ++ [Const.filler] else s

/-- `apply(M, v0, v1)` (R134). -/
def applyBlock (o : Orientation) (m : Mat2 Int) (v0 v1 : Fin 26) : Fin 26 × Fin 26 :=
  match o with
  | .col =>
    (mod26 (m.m00 * residue v0 + m.m01 * residue v1), mod26 (m.m10 * residue v0 + m.m11 * residue v1))
  | .row =>
    (mod26 (residue v0 * m.m00 + residue v1 * m.m10), mod26 (residue v0 * m.m01 + residue v1 * m.m11))

/-- The blocks `(s[2b], s[2b+1])`, transformed in order and independently of each other (R133). The commands apply it to
sequences of even length only; a last single index would be dropped. -/
def applyBlocks (o : Orientation) (m : Mat2 Int) : List (Fin 26) → List (Fin 26)
  | v0 :: v1 :: rest =>
    (applyBlock o m v0 v1).1 :: (applyBlock o m v0 v1).2 :: applyBlocks o m rest
  | _ => []

/-- The whole of `encode(text, M)` (R130, R136). -/
def hillEncode (o : Orientation) (m : Mat2 Int) (text : List Byte) : List Byte :=
  (applyBlocks o m (fill (strip text))).map chr26

/-- The transform of `decode` once the key and the letter count are accepted (R137): no filler, no trimming (R139). -/
def hillDecode (o : Orientation) (ki : Mat2 (Fin 26)) (text : List Byte) : List Byte :=
  (applyBlocks o (ki.map residue) (strip text)).map chr26

end Sys2Proof.Machine
end

