-- ==== Sys2Proof/Machine/Hill.lean ====
section
/-! DEFINITION. The alphabetic matrix cipher family: HENC and HDEC (`41_hill_cipher.md` R136, R137). -/

namespace Sys2Proof.Machine

/-- HENC: matrix-cipher encode (R136). It never checks the key and never fails. -/
def execHenc (s : State) : Host.Outcome State Fault Refusal :=
  .next
    (complete .success (writeOut (hillEncode s.cfg.orient (keyMatrix s) (message s)) (clearOut s)))

/-- HDEC: matrix-cipher decode (R137). The key is judged first, then the letter count (R221); the inverse is recomputed from K
and its registers are written before the text is judged. -/
def execHdec (s : State) : Host.Outcome State Fault Refusal :=
  let c := writeInverse (clearOut s)
  .next
    (if validKey (keyMatrix s) = false then raiseError .invalidKey c
     else if (strip (message s)).length % 2 ≠ 0 then raiseError .malformedInput c
     else complete .success (writeOut (hillDecode s.cfg.orient c.ki (message s)) c))

end Sys2Proof.Machine
end

