-- ==== Sys2Proof/Machine/Kdf.lean ====
section
/-! DEFINITION. The key derivation family: KDRV (`42_kdf.md` R152). -/

namespace Sys2Proof.Machine

/-- KDRV: derive the key into the hidden register (R152). It touches neither OBUF nor OLEN and never fails. -/
def execKdrv (s : State) : Host.Outcome State Fault Refusal :=
  .next (complete .success (loadKey (deriveKey s s.salt) s))

end Sys2Proof.Machine
end

