-- ==== Sys2Proof/Machine/Matrix.lean ====
section
/-! DEFINITION. The matrix family: MDET and MINV (`40_matrix.md` R117, R118). -/

namespace Sys2Proof.Machine

/-- MDET: compute the determinant (R117). It always succeeds, also for an invalid key. -/
def execMdet (s : State) : Host.Outcome State Fault Refusal :=
  .next (complete .success (writeDet s))

/-- MINV: compute the inverse matrix modulo 26, or InvalidKey after DET and DETM are written (R118). It touches neither OBUF
nor OLEN. -/
def execMinv (s : State) : Host.Outcome State Fault Refusal :=
  .next
    (if validKey (keyMatrix s) then complete .success (writeInverse s)
     else raiseError .invalidKey (writeInverse s))

end Sys2Proof.Machine
end

