-- ==== Sys2Proof/Machine/Padding.lean ====
section
/-! DEFINITION. The padding family: PAD and UNPD (`43_padding.md` R162, R163). -/

namespace Sys2Proof.Machine

/-- PAD: append padding (R162). It never fails. -/
def execPad (s : State) : Host.Outcome State Fault Refusal :=
  .next (complete .success (writeOut (pad16 (message s)) (clearOut s)))

/-- UNPD: validate and remove padding (R163). The length is judged first, then the padding. -/
def execUnpd (s : State) : Host.Outcome State Fault Refusal :=
  .next
    (if lengthUnaligned s then raiseError .malformedInput (clearOut s)
     else
      match unpad16 (message s) with
      | none => raiseError .invalidPadding (clearOut s)
      | some r => complete .success (writeOut r (clearOut s)))

end Sys2Proof.Machine
end

