-- ==== Sys2Proof/Machine/Pipeline.lean ====
section
/-! DEFINITION. The pipeline family: ENCR and DECR (`45_pipeline.md` R183, R184). A command is one indivisible step (R60), so the
derived key that stands in KEY while the command runs is seen only through the result; after the command KEY is zero and KEYV
is 0 (R188; log entry 10). -/

namespace Sys2Proof.Machine

/-- ENCR: encrypt a message into a frame (R183). One draw, one derivation; it never fails. -/
def execEncr (s : State) : Host.Outcome State Fault Refusal :=
  let salt := drawSalt (nextDraw s)
  let iv := drawIv (nextDraw s)
  .next
    (complete .success
      (dropKey
        (writeOut (sealFrame (Config.kdf s.cfg.iter) Config.blockEnc (password s) salt iv (message s))
          (loadSaltIv salt iv (countDraw (clearOut s))))))

/-- DECR: decrypt a frame into a message (R184). A malformed frame is refused before SALT, IV or KEY is written; the key is
dropped before the padding is judged. -/
def execDecr (s : State) : Host.Outcome State Fault Refusal :=
  let f := message s
  .next
    (if frameMalformed s then raiseError .malformedInput (clearOut s)
     else
      let c := dropKey (loadSaltIv (frameSalt f) (frameIv f) (clearOut s))
      match unpad16 (openFrame (Config.kdf s.cfg.iter) Config.blockDec (password s) f) with
      | none => raiseError .invalidPadding c
      | some r => complete .success (writeOut r c))

end Sys2Proof.Machine
end

