-- ==== Sys2Proof/Machine/Dispatch.lean ====
section
/-! DEFINITION. The dispatch of a command to its meaning (`30_encoding.md` R91, R100), one arm per row of the opcode table. -/

namespace Sys2Proof.Machine

def exec (i : Instr) (s : State) : Host.Outcome State Fault Refusal :=
  match i with
  | .nop => Sys2Proof.Machine.execNop s
  | .mdet => Sys2Proof.Machine.execMdet s
  | .minv => Sys2Proof.Machine.execMinv s
  | .henc => Sys2Proof.Machine.execHenc s
  | .hdec => Sys2Proof.Machine.execHdec s
  | .kdrv => Sys2Proof.Machine.execKdrv s
  | .pad => Sys2Proof.Machine.execPad s
  | .unpd => Sys2Proof.Machine.execUnpd s
  | .cbce => Sys2Proof.Machine.execCbce s
  | .cbcd => Sys2Proof.Machine.execCbcd s
  | .encr => Sys2Proof.Machine.execEncr s
  | .decr => Sys2Proof.Machine.execDecr s
  | .clr => Sys2Proof.Machine.execClr s

end Sys2Proof.Machine
end

