-- ==== Sys2Proof/Machine/Command.lean ====
section
/-! DEFINITION. What one host event does: a command word written to CMD (`30_encoding.md` R92, R93, R100), a bus transaction
(`20_memory.md` R60 to R75), a reset (`70_reset_and_hazards.md` R240, R241). -/

namespace Sys2Proof.Machine

/-- The bus address of CMD (R31). -/
def cmdAddr : Addr := 0x0004#16

/-- A word written to CMD: the command it encodes, or IllegalCommand, whose whole effect is `Complete(5)` (R93, R100, R219). -/
def runWord (w : Word) (s : State) : Host.Outcome State Fault Refusal :=
  match decode w with
  | .ok i => exec i s
  | .error _ => .next (raiseError .illegalCommand s)

/-- A write ends with OK and its effect, or with BUSERR and no effect (R60, R69). -/
def answerWrite (s : State) (effect : Option State) : State :=
  match effect with
  | some t => answer .ok t
  | none => answer .busErr s

/-- One transaction, whole (R60, R77). A write to CMD runs its command entirely inside the transaction and responds OK whatever
the outcome (R75). -/
def runTxn (t : Txn) (s : State) : Host.Outcome State Fault Refusal :=
  match t with
  | .read32 a =>
    .next (answer (match busRead32 a s with | some v => .word v | none => .busErr) s)
  | .read8 a =>
    .next (answer (match busRead8 a s with | some v => .byte v | none => .busErr) s)
  | .write8 a v => .next (answerWrite s (busWrite8 a v s))
  | .write32 a v =>
    if a = cmdAddr then
      match runWord v s with
      | .next t => .next (answer .ok t)
      | .fault r => .fault r
      | .refused r => .refused r
    else .next (answerWrite s (busWrite32 a v s))

/-- One event from outside. -/
def runEvent (e : Event) (s : State) : Host.Outcome State Fault Refusal :=
  match e with
  | .bus t => runTxn t s
  | .reset => .next (resetBlock s)

/-- The host event by which a command word reaches the block: the write to CMD (R31). -/
def commandEvent (w : Word) : Event := .bus (.write32 cmdAddr w)

end Sys2Proof.Machine
end

