-- ==== Sys2Proof/Machine/Step.lean ====
section
/-! DEFINITION. The step: the next host event is delivered (`00_scope.md` R15, `70_reset_and_hazards.md` R253). -/

namespace Sys2Proof.Machine

/-- One step: the first waiting event is taken and performed. With no event waiting the block does nothing (R241: it "executes
nothing until the host writes CMD"; log entry 2). -/
def step (s : State) : Host.Outcome State Fault Refusal :=
  match s.inbox with
  | [] => .next s
  | e :: rest => runEvent e { s with inbox := rest }

/-- The state in which the host's next event is the write of that command word to CMD (log entry 15). -/
def State.withFetchWord (s : State) (nbits w : Nat) : State :=
  { s with inbox := commandEvent (tableWord nbits w) :: s.inbox }

end Sys2Proof.Machine
end

