-- ==== Sys2Proof/Machine/Asm.lean ====
section
/-! DEFINITION. The host's notation for programs (`30_encoding.md` R97 to R99): the lines, the pseudo-instructions with their
expansions, and the listing form. It is the host's side, no state of the block. -/

namespace Sys2Proof.Machine.Asm

/-- The bus address of a register (R46). -/
def regAddr (r : Reg) : Addr :=
  match r with
  | .id => 0x00#16
  | .cmd => 0x04#16
  | .status => 0x08#16
  | .estk => 0x0C#16
  | .k00 => 0x10#16
  | .k01 => 0x14#16
  | .k10 => 0x18#16
  | .k11 => 0x1C#16
  | .detLo => 0x20#16
  | .detHi => 0x24#16
  | .detm => 0x28#16
  | .dinv => 0x2C#16
  | .ki00 => 0x30#16
  | .ki01 => 0x34#16
  | .ki10 => 0x38#16
  | .ki11 => 0x3C#16
  | .ilen => 0x40#16
  | .olen => 0x44#16
  | .plen => 0x48#16
  | .iter => 0x4C#16
  | .icap => 0x50#16
  | .ocap => 0x54#16
  | .pcap => 0x58#16

/-- The bases of the byte locations `SALT+i`, `IV+i`, `PBUF+i`, `IBUF+i`, `OBUF+i` (R97). -/
inductive Base where
  | salt
  | iv
  | pbuf
  | ibuf
  | obuf
deriving DecidableEq, Repr

/-- The address of `<base>+i` (R97). -/
def baseAddr (b : Base) (i : Nat) : Addr :=
  BitVec.ofNat 16
    (match b with
      | .salt => 0x0100 + i
      | .iv => 0x0110 + i
      | .pbuf => 0x0400 + i
      | .ibuf => 0x4000 + i
      | .obuf => 0x8000 + i)

/-- `wr32 <reg>, <value>`; a value is a decimal integer, negative ones meaning `word32(value)` (R97). -/
def wr32 (r : Reg) (v : Int) : Txn := .write32 (regAddr r) (BitVec.ofInt 32 v)

/-- `rd32 <reg>` (R97). -/
def rd32 (r : Reg) : Txn := .read32 (regAddr r)

/-- `wr8 <loc>, <byte>` (R97). -/
def wr8 (b : Base) (i : Nat) (v : Byte) : Txn := .write8 (baseAddr b i) v

/-- `rd8 <loc>` (R97). -/
def rd8 (b : Base) (i : Nat) : Txn := .read8 (baseAddr b i)

/-- `cmd <mnemonic>`: `MemWrite(0x0004, 4, opcode(<mnemonic>))` (R97). -/
def cmd (i : Instr) : Txn := .write32 cmdAddr (encode i)

/-- `wr8 base+0, bytes[0]` and so on. -/
def putBytes (b : Base) (bytes : List Byte) : List Txn := bytes.mapIdx fun i v => wr8 b i v

/-- `ldk a, b, c, d` (R98). -/
def ldk (a b c d : Int) : List Txn := [wr32 .k00 a, wr32 .k01 b, wr32 .k10 c, wr32 .k11 d]

/-- `ldi <bytes>` (R98). -/
def ldi (bytes : List Byte) : List Txn := putBytes .ibuf bytes ++ [wr32 .ilen bytes.length]

/-- `ldp <bytes>` (R98). -/
def ldp (bytes : List Byte) : List Txn := putBytes .pbuf bytes ++ [wr32 .plen bytes.length]

/-- `lds <16 bytes>` (R98). -/
def lds (salt : Block) : List Txn := putBytes .salt salt.toList

/-- `ldv <16 bytes>` (R98). -/
def ldv (iv : Block) : List Txn := putBytes .iv iv.toList

/-- `rdo`, when `rd32 OLEN` returned `n` (R98). -/
def rdo (n : Nat) : List Txn := rd32 .olen :: (List.range n).map (rd8 .obuf)

/-- `mvo`, when `rdo` returned `bytes`: the output message becomes the input (R98). The bytes pass through the host's memory. -/
def mvo (bytes : List Byte) : List Txn := rdo bytes.length ++ ldi bytes

/-- `chk`: the read of STATUS, and whether the host's program continues on the word read: bit 1 (ERR) is 0 (R98). -/
def chk : Txn := rd32 .status

/-- The host's test in `chk` (R98). -/
def chkContinues (status : Word) : Bool := status.getLsbD 1 = false

/-- One hexadecimal digit. -/
def hexDigit (n : Nat) : Char := "0123456789ABCDEF".toList.getD (n % 16) '0'

/-- `n` as hexadecimal digits, `k` of them. -/
def hexDigits : (k n : Nat) → List Char
  | 0, _ => []
  | k + 1, n => hexDigits k (n / 16) ++ [hexDigit n]

/-- The listing form `W4 aaaa vvvvvvvv`, `R4 aaaa`, `W1 aaaa vv`, `R1 aaaa` (R99). -/
def listing (t : Txn) : List Char :=
  match t with
  | .write32 a v => 'W' :: '4' :: ' ' :: hexDigits 4 a.toNat ++ ' ' :: hexDigits 8 v.toNat
  | .read32 a => 'R' :: '4' :: ' ' :: hexDigits 4 a.toNat
  | .write8 a v => 'W' :: '1' :: ' ' :: hexDigits 4 a.toNat ++ ' ' :: hexDigits 2 v.toNat
  | .read8 a => 'R' :: '1' :: ' ' :: hexDigits 4 a.toNat

end Sys2Proof.Machine.Asm
end

