-- ==== Sys2Proof/Safety.lean ====
section
/-! DEFINITION. The terms of the claims: the invariant of the reachable states (`10_state.md` R29, R34, R36, R40, R43;
`20_memory.md` R74), and what the host takes for a run without failures (`60_exceptions.md` R225). -/

namespace Sys2Proof.Machine

/-- The derived matrix registers are those of the current K, or zero with their valid bits clear (R29). -/
structure State.DerivedOk (s : State) : Prop where
  /-- if DETV = 1 then DET = det2(K) and DETM = mod26(DET) -/
  det : s.detv = true → s.det.toInt = det2 (keyMatrix s) ∧ s.detm = mod26 (det2 (keyMatrix s))
  /-- if KIV = 1 then DETV = 1, DETM is a unit, DINV its inverse and KI the inverse of K modulo 26 -/
  inv : s.kiv = true → s.detv = true ∧ minv26 (keyMatrix s) = some (s.detm, s.dinv, s.ki)
  /-- if DETV = 0 then DET and DETM are 0 and KIV = 0 -/
  noDet : s.detv = false → s.det = 0 ∧ s.detm = 0 ∧ s.kiv = false
  /-- if KIV = 0 then DINV and all KI are 0 -/
  noInv : s.kiv = false → s.dinv = 0 ∧ s.ki = Mat2.const 0

/-- The buffers and lengths: canonical, within their capacities, OBUF zero from OLEN on (R34 to R36, R41 to R43, R74). -/
structure State.BuffersOk (s : State) : Prop where
  pbufForm : Memory.wf s.pbuf = true
  ibufForm : Memory.wf s.ibuf = true
  obufForm : Memory.wf s.obuf = true
  pbufBelow : Memory.below s.cfg.pbufCap s.pbuf = true
  ibufBelow : Memory.below s.cfg.ibufCap s.ibuf = true
  obufBelow : Memory.below s.olen s.obuf = true
  plen : s.plen ≤ s.cfg.pbufCap
  ilen : s.ilen ≤ s.cfg.ibufCap
  olen : s.olen ≤ s.cfg.obufCap

/-- The status fields agree with each other: ERR = 1 exactly when ECODE is not 0, and only after a completion (R32); KEY is zero
while KEYV = 0 (R40). -/
structure State.StatusOk (s : State) : Prop where
  err : s.err = isError s.ecode
  done : s.done = false → s.ecode = .success
  key : s.keyv = false → s.key = zeroKey

/-- The invariant of the reachable states under a configuration that meets R8. -/
structure State.Inv (s : State) : Prop where
  cfg : s.cfg.wf = true
  derived : s.DerivedOk
  buffers : s.BuffersOk
  status : s.StatusOk

/-- What the host sees of a run without failures: no ESTK bit is set and no BUSERR was received (R225). -/
def State.clean (s : State) : Bool := s.estk = 0 && !(s.replies.contains .busErr)

/-- The states agree in everything but the two secrets that no bus address shows: PBUF's contents and KEY (R40, R41, R233). -/
def State.publicEq (s t : State) : Prop :=
  { s with pbuf := [], key := zeroKey } = { t with pbuf := [], key := zeroKey }

/-- The output message is `r`: OLEN its length, the bytes below OLEN its bytes, every byte from OLEN on 0 (R35, R43). -/
def OutputIs (t : State) (r : List Byte) : Prop :=
  t.olen = r.length ∧ output t = r ∧ ∀ o, r.length ≤ o → Memory.read t.obuf o = 0

/-- The state after the host has written `bytes` to IBUF and their number to ILEN (`ldi` of `30_encoding.md` R98). -/
def loadInput (bytes : List Byte) (s : State) : State :=
  { s with ibuf := Memory.writeBytes s.ibuf 0 bytes, ilen := bytes.length }

/-- The state after the host has copied the output message to the input (`mvo` of R98). -/
def feedBack (s : State) : State := loadInput (output s) s

/-- The eight commands that run `ClearOut()` first (R100). -/
def isBufferProducing (i : Instr) : Bool :=
  match i with
  | .henc | .hdec | .pad | .unpd | .cbce | .cbcd | .encr | .decr => true
  | .nop | .mdet | .minv | .kdrv | .clr => false

/-- The commands of the matrix family (`40_matrix.md`, `41_hill_cipher.md`). -/
def isMatrixFamily (i : Instr) : Bool :=
  match i with
  | .mdet | .minv | .henc | .hdec => true
  | .nop | .kdrv | .pad | .unpd | .cbce | .cbcd | .encr | .decr | .clr => false

/-- The commands of the pipeline families (`42_kdf.md` to `45_pipeline.md`). -/
def isPipelineFamily (i : Instr) : Bool :=
  match i with
  | .kdrv | .pad | .unpd | .cbce | .cbcd | .encr | .decr => true
  | .nop | .mdet | .minv | .henc | .hdec | .clr => false

/-- The column "can end with" of R91. -/
def mayEndWith (i : Instr) : List ErrorCode :=
  match i with
  | .nop | .mdet | .henc | .kdrv | .pad | .encr | .clr => [.success]
  | .minv => [.success, .invalidKey]
  | .hdec => [.success, .invalidKey, .malformedInput]
  | .unpd | .decr => [.success, .malformedInput, .invalidPadding]
  | .cbce | .cbcd => [.success, .noKey, .malformedInput]

/-- The state with the operands and results of the pipeline replaced: SALT, IV, KEY, KEYV, PBUF, PLEN (R3). -/
def withPipeline (s p : State) : State :=
  { s with salt := p.salt, iv := p.iv, key := p.key, keyv := p.keyv, pbuf := p.pbuf, plen := p.plen }

/-- The state with the registers of the matrix unit replaced: K, DET, DETM, DINV, KI, DETV, KIV (R3). -/
def withMatrix (s p : State) : State :=
  { s with
    k := p.k, det := p.det, detv := p.detv, detm := p.detm, dinv := p.dinv, ki := p.ki, kiv := p.kiv }

/-- The letters of a text, upper-cased, in order: `u(T)` of R138. -/
def lettersOf (text : List Byte) : List Byte := (strip text).map chr26

/-- The determinant of the K registers, written out (R111). -/
def detOf (k : Mat2 Word) : Int := k.m00.toInt * k.m11.toInt - k.m01.toInt * k.m10.toInt

/-- The key in the K registers is valid, written out: the gcd of `det2(K) mod 26` and 26 is 1 (R119). -/
def keyGood (k : Mat2 Word) : Prop := Int.gcd (detOf k % 26) 26 = 1

end Sys2Proof.Machine
end

