-- ==== Sys2Proof/Certificates/Slice0/Obligations.lean ====
section
/-! DEFINITION. The statements for the provers. Each docstring names the rules of the spec it formalises, or says that it rests
on a choice of the model. -/

open Sys2Proof Sys2Proof.Machine

/-! ## Encoding and the step -/

/-- When the next host event is the write of a word to CMD that decodes to a command, the step is that command's meaning at the
state with the event taken from the inbox, and then the reply OK (R75, R100). -/
def Obligations.StepRunsDecodedCommand : Prop :=
  ∀ (s : State) (w : Word) (i : Instr) (rest : List Event),
    s.inbox = commandEvent w :: rest → decode w = .ok i →
      ∃ t, exec i { s with inbox := rest } = .next t ∧ step s = .next { t with replies := .ok :: t.replies }

/-- A step with a bus transaction waiting performs that transaction; with a reset waiting it resets; with nothing waiting it
changes nothing. The last clause and the inbox itself are the model's choice (log entries 1 and 2). -/
def Obligations.StepDeliversNextEvent : Prop :=
  ∀ (s : State) (rest : List Event),
    (∀ t, s.inbox = .bus t :: rest → step s = runTxn t { s with inbox := rest }) ∧
      (s.inbox = .reset :: rest → step s = .next (resetBlock { s with inbox := rest })) ∧
        (s.inbox = [] → step s = .next s)

/-- Every step answers a next state, which has lost exactly the delivered event from the inbox, keeps the parameters and all
earlier replies, adds one reply for a transaction and none otherwise, and counts a draw only for ENCR. The fields are the
model's own (log entries 1, 3, 4, 5); that every transaction has exactly one outcome is the end of part 1 of
`93_implementation_defined.md`. -/
def Obligations.EveryStepAnswersAndConsumesOneEvent : Prop :=
  ∀ s : State, ∃ t, step s = .next t ∧ t.inbox = s.inbox.tail ∧ t.cfg = s.cfg ∧
    (∀ tx rest, s.inbox = .bus tx :: rest → ∃ r, t.replies = r :: s.replies) ∧
      ((∀ tx rest, s.inbox ≠ .bus tx :: rest) → t.replies = s.replies) ∧
        t.draws = s.draws + if s.inbox.head? = some (commandEvent (encode .encr)) then 1 else 0

/-- R92: the words whose bits 31:8 are not 0 are illegal, the thirteen command words decode to their commands and only those
words do, and no two commands share a word. -/
def Obligations.DecodeAcceptsExactlyCommandWords : Prop :=
  (∀ (w : Word) (i : Instr), decode w = .ok i ↔ w = encode i) ∧
    (∀ w : Word, 256 ≤ w.toNat → decode w = .error .reservedBits) ∧
      (∀ w : Word, w.toNat < 256 → (∀ i, w ≠ encode i) → decode w = .error .unusedOpcode) ∧
        (∀ i j : Instr, encode i = encode j → i = j) ∧ ∀ i : Instr, i.wf = true ∧ (encode i).toNat < 256

/-- The thirteen words of R91, and four words that are no command (`95_test_vectors.md` B1 to B3 and rule R93). -/
def Obligations.CommandWordsOfTheTable : Prop :=
  decode 0x00000000#32 = .ok .nop ∧ decode 0x00000001#32 = .ok .mdet ∧ decode 0x00000002#32 = .ok .minv ∧
    decode 0x00000010#32 = .ok .henc ∧ decode 0x00000011#32 = .ok .hdec ∧ decode 0x00000020#32 = .ok .kdrv ∧
      decode 0x00000030#32 = .ok .pad ∧ decode 0x00000031#32 = .ok .unpd ∧ decode 0x00000040#32 = .ok .cbce ∧
        decode 0x00000041#32 = .ok .cbcd ∧ decode 0x00000050#32 = .ok .encr ∧ decode 0x00000051#32 = .ok .decr ∧
          decode 0x0000007F#32 = .ok .clr ∧ decode 0x00000150#32 = .error .reservedBits ∧
            decode 0x00000100#32 = .error .reservedBits ∧ decode 0xFFFFFFFF#32 = .error .reservedBits ∧
              decode 0x00000012#32 = .error .unusedOpcode

/-- R219: a CMD write whose word is none of the thirteen has `Complete(5)` as its whole effect, and responds OK. -/
def Obligations.IllegalWordOnlyCompletesWithFive : Prop :=
  ∀ (s : State) (w : Word) (rest : List Event),
    s.inbox = commandEvent w :: rest → (∀ i, w ≠ encode i) →
      step s = .next
        { s with
          inbox := rest, replies := .ok :: s.replies, done := true, err := true, ecode := .illegalCommand,
          estk := s.estk ||| 0b10000#5 }

/-! ## Completion, status and errors -/

/-- R216: what `Complete(c)` writes, bit by bit, that it writes nothing else, and that every CMD write ends with exactly one:
before it, the four status fields are those the write found. -/
def Obligations.CompleteWritesStatusAndSticky : Prop :=
  (∀ (c : ErrorCode) (s : State),
    complete c s =
        { s with done := true, err := decide (c ≠ .success), ecode := c, estk := (complete c s).estk } ∧
      ∀ j, j < 5 →
        (complete c s).estk.getLsbD j = (s.estk.getLsbD j || decide ((errorNumber c).toNat = j + 1))) ∧
    ∀ (w : Word) (s : State), ∃ c u, runWord w s = .next (complete c u) ∧
      u.done = s.done ∧ u.err = s.err ∧ u.ecode = s.ecode ∧ u.estk = s.estk

/-- The numbers of the codes (R211) and the fields of STATUS (R32), bit by bit. -/
def Obligations.StatusWordLayout : Prop :=
  (errorNumber .success = 0 ∧ errorNumber .invalidKey = 1 ∧ errorNumber .malformedInput = 2 ∧
    errorNumber .invalidPadding = 3 ∧ errorNumber .noKey = 4 ∧ errorNumber .illegalCommand = 5) ∧
    ∀ s : State, ∃ v : Word, busRead32 0x08#16 s = some v ∧ v.getLsbD 0 = s.done ∧ v.getLsbD 1 = s.err ∧
      v.getLsbD 2 = false ∧ v.getLsbD 3 = false ∧ v.extractLsb' 4 4 = errorNumber s.ecode ∧
        v.getLsbD 8 = s.detv ∧ v.getLsbD 9 = s.kiv ∧ v.getLsbD 10 = s.keyv ∧ ∀ j, 11 ≤ j → v.getLsbD j = false

/-- R33: how ESTK reads, how a host write clears it, that reset clears it, that a completion with code c sets bit c, and that no
command clears a bit. -/
def Obligations.StickyRecordKeepsErrors : Prop :=
  ∀ s : State,
    (∃ v : Word, busRead32 0x0C#16 s = some v ∧ v.getLsbD 0 = false ∧ (∀ j, 6 ≤ j → v.getLsbD j = false) ∧
      ∀ j, j < 5 → v.getLsbD (j + 1) = s.estk.getLsbD j) ∧
    (∀ w : Word, ∃ e, runTxn (.write32 0x0C#16 w) s = .next { s with estk := e, replies := .ok :: s.replies } ∧
      ∀ j, j < 5 → e.getLsbD j = (s.estk.getLsbD j && !w.getLsbD (j + 1))) ∧
    (resetBlock s).estk = 0 ∧
    ∀ (w : Word) (t : State), runWord w s = .next t → ∀ j, j < 5 →
      t.estk.getLsbD j = (s.estk.getLsbD j || decide ((errorNumber t.ecode).toNat = j + 1))

/-- The error codes each command can end with, column "can end with" of R91. -/
def Obligations.CommandsEndOnlyWithTheirCodes : Prop :=
  ∀ (i : Instr) (s : State), ∃ t, exec i s = .next t ∧ t.ecode ∈ mayEndWith i ∧ t.done = true ∧
    (t.err = true ↔ t.ecode ≠ .success)

/-- R217, the output clause: a buffer-producing command that ends in an error leaves OBUF all zero and OLEN 0. -/
def Obligations.FailedCommandLeavesNoOutput : Prop :=
  ∀ (i : Instr) (s t : State),
    isBufferProducing i = true → exec i s = .next t → t.ecode ≠ .success →
      t.olen = 0 ∧ ∀ o, Memory.read t.obuf o = 0

/-! ## Reset and invariants -/

/-- R45: after a reset every piece of state of R20 is zero, STATUS reads 0, the constants read their values, and HDEC ends with
InvalidKey whatever the text and the parameters, as long as K is as reset left it. -/
def Obligations.ResetZeroesEverything : Prop :=
  (∀ s : State, ∃ t, step { s with inbox := .reset :: s.inbox } = .next t ∧
    t.k = Mat2.const 0 ∧ t.det = 0 ∧ t.detv = false ∧ t.detm = 0 ∧ t.dinv = 0 ∧ t.ki = Mat2.const 0 ∧ t.kiv = false ∧
      (∀ o, Memory.read t.pbuf o = 0 ∧ Memory.read t.ibuf o = 0 ∧ Memory.read t.obuf o = 0) ∧
        t.salt = Vector.replicate 16 0 ∧ t.iv = Vector.replicate 16 0 ∧ t.key = Vector.replicate 32 0 ∧
          t.plen = 0 ∧ t.ilen = 0 ∧ t.olen = 0 ∧ t.keyv = false ∧ t.done = false ∧ t.err = false ∧
            t.ecode = .success ∧ t.estk = 0 ∧ busRead32 0x08#16 t = some 0 ∧
              busRead32 0x00#16 t = some 0x4344481A#32 ∧ busRead32 0x4C#16 t = some (BitVec.ofNat 32 s.cfg.iter) ∧
                busRead32 0x50#16 t = some (BitVec.ofNat 32 s.cfg.ibufCap) ∧
                  busRead32 0x54#16 t = some (BitVec.ofNat 32 s.cfg.obufCap) ∧
                    busRead32 0x58#16 t = some (BitVec.ofNat 32 s.cfg.pbufCap)) ∧
    (∀ s : State, s.k = Mat2.const 0 → ∃ t, exec .hdec s = .next t ∧ t.ecode = .invalidKey ∧ t.olen = 0) ∧
      resetBlock State.reset = State.reset

/-- The reset state meets the invariant. Its parameters are the spec's defaults (log entry 4). -/
def Obligations.ResetMeetsInvariant : Prop := State.reset.Inv

/-- Every step from any state that meets the invariant gives a state that meets it: the derived matrix registers are those of the
current K or zero (R29), lengths stay within the capacities (R34 to R36, R74), OBUF is zero from OLEN on (R43), the buffers
stay canonical, ERR agrees with ECODE (R32), and KEY is zero while KEYV = 0 (R40). -/
def Obligations.StepKeepsInvariant : Prop :=
  ∀ s t : State, s.Inv → step s = .next t → t.Inv

/-- R29 in the words of the rule, for every state that meets the invariant. -/
def Obligations.InvariantMeansDerivedRegistersAreCurrent : Prop :=
  ∀ s : State, s.Inv →
    (s.detv = true → s.det.toInt = detOf s.k ∧ (s.detm.val : Int) = detOf s.k % 26) ∧
      (s.kiv = true → s.detv = true ∧ Nat.gcd s.detm.val 26 = 1 ∧ inv26 s.detm = some s.dinv ∧
        (s.k.m00.toInt * s.ki.m00.val + s.k.m01.toInt * s.ki.m10.val) % 26 = 1 ∧
          (s.k.m00.toInt * s.ki.m01.val + s.k.m01.toInt * s.ki.m11.val) % 26 = 0 ∧
            (s.k.m10.toInt * s.ki.m00.val + s.k.m11.toInt * s.ki.m10.val) % 26 = 0 ∧
              (s.k.m10.toInt * s.ki.m01.val + s.k.m11.toInt * s.ki.m11.val) % 26 = 1) ∧
        (s.detv = false → s.det = 0 ∧ s.detm = 0 ∧ s.dinv = 0 ∧ s.ki = ⟨0, 0, 0, 0⟩ ∧ s.kiv = false) ∧
          (s.kiv = false → s.dinv = 0 ∧ s.ki = ⟨0, 0, 0, 0⟩)

/-! ## The host bus -/

/-- Which register each aligned offset below 0x5C reaches (R46), and that no other 4-byte address reaches one. -/
def Obligations.RegisterMapIsExact : Prop :=
  (∀ r : Reg, regAt (Asm.regAddr r) = some r) ∧ (∀ (a : Addr) (r : Reg), regAt a = some r → a = Asm.regAddr r) ∧
    ∀ a : Addr, regAt a = none ↔ (a.toNat % 4 ≠ 0 ∨ 0x5C ≤ a.toNat)

/-- R64, R65 and R68: a misaligned 4-byte access, a 4-byte access at or above 0x0100, a 1-byte access below 0x0100, and any
access to reserved register space or to an unmapped address, the part of a window at or beyond its capacity among them,
respond BUSERR and change nothing. The premise of the second half is R8's constraints on the capacities. -/
def Obligations.IllFormedAccessesAreRefused : Prop :=
  ∀ (s : State) (a : Addr),
    (a.toNat % 4 ≠ 0 ∨ 0x0100 ≤ a.toNat →
      runTxn (.read32 a) s = .next { s with replies := .busErr :: s.replies } ∧
        ∀ v, runTxn (.write32 a v) s = .next { s with replies := .busErr :: s.replies }) ∧
    (a.toNat < 0x0100 →
      runTxn (.read8 a) s = .next { s with replies := .busErr :: s.replies } ∧
        ∀ v, runTxn (.write8 a v) s = .next { s with replies := .busErr :: s.replies }) ∧
    (s.cfg.wf = true →
      (0x005C ≤ a.toNat ∧ a.toNat < 0x0100 ∨ 0x0120 ≤ a.toNat ∧ a.toNat < 0x0400 ∨
        0x0400 + s.cfg.pbufCap ≤ a.toNat ∧ a.toNat < 0x4000 ∨ 0x4000 + s.cfg.ibufCap ≤ a.toNat ∧ a.toNat < 0x8000 ∨
          0x8000 + s.cfg.obufCap ≤ a.toNat) →
      runTxn (.read32 a) s = .next { s with replies := .busErr :: s.replies } ∧
        runTxn (.read8 a) s = .next { s with replies := .busErr :: s.replies } ∧
          (∀ v, runTxn (.write32 a v) s = .next { s with replies := .busErr :: s.replies }) ∧
            ∀ v, runTxn (.write8 a v) s = .next { s with replies := .busErr :: s.replies })

/-- R69: a transaction that responds BUSERR changes no state of the block. -/
def Obligations.RefusedTransactionChangesNothing : Prop :=
  ∀ (s t : State) (tx : Txn),
    runTxn tx s = .next t → t.replies = .busErr :: s.replies → t = { s with replies := .busErr :: s.replies }

/-- R62: the value of every word register on the bus, and that a read changes no state. -/
def Obligations.WordReadValues : Prop :=
  ∀ s : State,
    (∀ (a : Addr) (v : Word), busRead32 a s = some v →
      runTxn (.read32 a) s = .next { s with replies := .word v :: s.replies }) ∧
    busRead32 0x00#16 s = some 0x4344481A#32 ∧ busRead32 0x04#16 s = some 0 ∧
    busRead32 0x08#16 s = some (statusWord s) ∧ busRead32 0x0C#16 s = some (stickyWord s) ∧
    busRead32 0x10#16 s = some s.k.m00 ∧ busRead32 0x14#16 s = some s.k.m01 ∧
    busRead32 0x18#16 s = some s.k.m10 ∧ busRead32 0x1C#16 s = some s.k.m11 ∧
    busRead32 0x20#16 s = some (s.det.setWidth 32) ∧ busRead32 0x24#16 s = some ((s.det >>> 32).setWidth 32) ∧
    busRead32 0x28#16 s = some (BitVec.ofNat 32 s.detm.val) ∧ busRead32 0x2C#16 s = some (BitVec.ofNat 32 s.dinv.val) ∧
    busRead32 0x30#16 s = some (BitVec.ofNat 32 s.ki.m00.val) ∧
    busRead32 0x34#16 s = some (BitVec.ofNat 32 s.ki.m01.val) ∧
    busRead32 0x38#16 s = some (BitVec.ofNat 32 s.ki.m10.val) ∧
    busRead32 0x3C#16 s = some (BitVec.ofNat 32 s.ki.m11.val) ∧
    busRead32 0x40#16 s = some (BitVec.ofNat 32 s.ilen) ∧ busRead32 0x44#16 s = some (BitVec.ofNat 32 s.olen) ∧
    busRead32 0x48#16 s = some (BitVec.ofNat 32 s.plen) ∧ busRead32 0x4C#16 s = some (BitVec.ofNat 32 s.cfg.iter) ∧
    busRead32 0x50#16 s = some (BitVec.ofNat 32 s.cfg.ibufCap) ∧
    busRead32 0x54#16 s = some (BitVec.ofNat 32 s.cfg.obufCap) ∧
    busRead32 0x58#16 s = some (BitVec.ofNat 32 s.cfg.pbufCap)

/-- R24 and R63 but for ILEN, PLEN, ESTK and CMD, which R74, R33 and R75 rule: a write to a K register stores the word and
clears every derived value, whatever the value; a write to a read-only register responds OK and changes nothing. -/
def Obligations.KeyWritesClearDerivedReadOnlyIgnored : Prop :=
  ∀ (s : State) (v : Word),
    (∀ (a : Addr) (k : Mat2 Word),
      (a, k) ∈ [(0x10#16, ⟨v, s.k.m01, s.k.m10, s.k.m11⟩), (0x14#16, ⟨s.k.m00, v, s.k.m10, s.k.m11⟩),
        (0x18#16, ⟨s.k.m00, s.k.m01, v, s.k.m11⟩), (0x1C#16, ⟨s.k.m00, s.k.m01, s.k.m10, v⟩)] →
      runTxn (.write32 a v) s = .next
        { s with
          k := k, det := 0, detv := false, detm := 0, dinv := 0, ki := ⟨0, 0, 0, 0⟩, kiv := false,
          replies := .ok :: s.replies }) ∧
    ∀ a : Addr,
      a ∈ [0x00#16, 0x08#16, 0x20#16, 0x24#16, 0x28#16, 0x2C#16, 0x30#16, 0x34#16, 0x38#16, 0x3C#16, 0x44#16, 0x4C#16,
        0x50#16, 0x54#16, 0x58#16] →
      runTxn (.write32 a v) s = .next { s with replies := .ok :: s.replies }

/-- R74: the range check of ILEN and PLEN, and that the lengths stay within the capacities along every step. -/
def Obligations.LengthWritesAreRangeChecked : Prop :=
  (∀ (s : State) (v : Word),
    (runTxn (.write32 0x40#16 v) s = .next
      (if v.toNat ≤ s.cfg.ibufCap then { s with ilen := v.toNat, replies := .ok :: s.replies }
       else { s with replies := .busErr :: s.replies })) ∧
    (runTxn (.write32 0x48#16 v) s = .next
      (if v.toNat ≤ s.cfg.pbufCap then { s with plen := v.toNat, replies := .ok :: s.replies }
       else { s with replies := .busErr :: s.replies }))) ∧
    (State.reset.ilen ≤ State.reset.cfg.ibufCap ∧ State.reset.plen ≤ State.reset.cfg.pbufCap) ∧
    ∀ s t : State, s.ilen ≤ s.cfg.ibufCap → s.plen ≤ s.cfg.pbufCap → step s = .next t →
      t.ilen ≤ t.cfg.ibufCap ∧ t.plen ≤ t.cfg.pbufCap

/-- Which byte location each 1-byte address reaches, the byte rows of R61. -/
def Obligations.ByteAddressMapIsExact : Prop :=
  ∀ c : Config, c.wf = true →
    (∀ i : Fin 16, byteAt c (BitVec.ofNat 16 (0x0100 + i.val)) = some (.salt i)) ∧
      (∀ i : Fin 16, byteAt c (BitVec.ofNat 16 (0x0110 + i.val)) = some (.iv i)) ∧
        (∀ o, o < c.pbufCap → byteAt c (BitVec.ofNat 16 (0x0400 + o)) = some (.pbuf o)) ∧
          (∀ o, o < c.ibufCap → byteAt c (BitVec.ofNat 16 (0x4000 + o)) = some (.ibuf o)) ∧
            (∀ o, o < c.obufCap → byteAt c (BitVec.ofNat 16 (0x8000 + o)) = some (.obuf o)) ∧
              ∀ a : Addr, byteAt c a = none ↔
                (a.toNat < 0x0100 ∨ 0x0120 ≤ a.toNat ∧ a.toNat < 0x0400 ∨
                  0x0400 + c.pbufCap ≤ a.toNat ∧ a.toNat < 0x4000 ∨
                    0x4000 + c.ibufCap ≤ a.toNat ∧ a.toNat < 0x8000 ∨ 0x8000 + c.obufCap ≤ a.toNat)

/-- R66: the value of a byte read in every window, 0 for PBUF whatever is stored, and that the read changes no state. -/
def Obligations.ByteReadValues : Prop :=
  ∀ s : State, s.cfg.wf = true →
    (∀ i : Fin 16, runTxn (.read8 (BitVec.ofNat 16 (0x0100 + i.val))) s =
      .next { s with replies := .byte s.salt[i] :: s.replies }) ∧
    (∀ i : Fin 16, runTxn (.read8 (BitVec.ofNat 16 (0x0110 + i.val))) s =
      .next { s with replies := .byte s.iv[i] :: s.replies }) ∧
    (∀ o, o < s.cfg.pbufCap → runTxn (.read8 (BitVec.ofNat 16 (0x0400 + o))) s =
      .next { s with replies := .byte 0 :: s.replies }) ∧
    (∀ o, o < s.cfg.ibufCap → runTxn (.read8 (BitVec.ofNat 16 (0x4000 + o))) s =
      .next { s with replies := .byte (Memory.read s.ibuf o) :: s.replies }) ∧
    ∀ o, o < s.cfg.obufCap → runTxn (.read8 (BitVec.ofNat 16 (0x8000 + o))) s =
      .next { s with replies := .byte (Memory.read s.obuf o) :: s.replies }

/-- R67: a byte write stores the byte at its location, leaves every other stored byte and all other state alone, is ignored by
OBUF, and responds OK. The premises are the canonical form of the two writable buffers. -/
def Obligations.ByteWriteStoresOneByte : Prop :=
  ∀ (s : State) (a : Addr) (v : Byte) (l : ByteLoc),
    Memory.wf s.pbuf = true → Memory.wf s.ibuf = true → byteAt s.cfg a = some l →
    ∃ t, runTxn (.write8 a v) s = .next t ∧
      t = { s with salt := t.salt, iv := t.iv, pbuf := t.pbuf, ibuf := t.ibuf, replies := .ok :: s.replies } ∧
        (∀ o, l = .obuf o → t = { s with replies := .ok :: s.replies }) ∧
          ((∀ o, l ≠ .obuf o) → storedByte t l = v) ∧ ∀ l', l' ≠ l → storedByte t l' = storedByte s l'

/-- R40 and R41: neither KEY nor the contents of PBUF can be seen through the bus. Two states that differ in nothing else answer
every transaction but a command alike, and still differ in nothing else. -/
def Obligations.SecretsAreNotReadable : Prop :=
  ∀ (s t : State) (tx : Txn),
    s.publicEq t → (∀ w, tx ≠ .write32 0x04#16 w) →
      ∃ s' t', runTxn tx s = .next s' ∧ runTxn tx t = .next t' ∧ s'.publicEq t' ∧ s'.replies = t'.replies

/-- `ldi` of R98 through the bus: after its transactions the input message is the bytes given, every reply is OK, and the other
bytes of IBUF and all else are as before. -/
def Obligations.LoadInputThroughTheBus : Prop :=
  ∀ (s : State) (bytes : List Byte),
    s.cfg.wf = true → Memory.wf s.ibuf = true → bytes.length ≤ s.cfg.ibufCap →
    s.inbox = (Asm.ldi bytes).map .bus →
      Host.Core.run core (bytes.length + 1) s =
        .next
          { loadInput bytes s with
            inbox := [], replies := List.replicate (bytes.length + 1) .ok ++ s.replies }

/-! ## The matrix family -/

/-- R10 for the modulus 26: the floored remainder, unique, with the rule's four values. -/
def Obligations.RemainderIsFloored : Prop :=
  (∀ z : Int, ((mod26 z).val : Int) = z % 26 ∧ (26 : Int) ∣ z - (mod26 z).val ∧
    ∀ r : Fin 26, (26 : Int) ∣ z - r.val → r = mod26 z) ∧
    mod26 (-59) = 19 ∧ mod26 (-8) = 18 ∧ mod26 26 = 0 ∧ mod26 (-1) = 25

/-- R11 and R115: which residues are units, and the inverse of each. -/
def Obligations.InverseTableIsExact : Prop :=
  (∀ d : Fin 26, (isUnit26 d = true ↔ Nat.gcd d.val 26 = 1) ∧
    (isUnit26 d = true ↔ d ∈ [1, 3, 5, 7, 9, 11, 15, 17, 19, 21, 23, 25]) ∧
      (isUnit26 d = true ↔ inv26 d ≠ none)) ∧
    (∀ d x : Fin 26, inv26 d = some x ↔ (d.val * x.val) % 26 = 1) ∧
      [1, 3, 5, 7, 9, 11, 15, 17, 19, 21, 23, 25].map inv26 =
        [some 1, some 9, some 21, some 15, some 3, some 19, some 7, some 23, some 11, some 5, some 17, some 25] ∧
        Nat.gcd 0 26 = 26

/-- R112: the bounds of the products and of the determinant for 32-bit entries, that DET holds it exactly, and the key that
reaches the largest value. -/
def Obligations.DeterminantFitsSixtyFourBits : Prop :=
  (∀ a b : Word, -(2 : Int) ^ 62 + 2 ^ 31 ≤ a.toInt * b.toInt ∧ a.toInt * b.toInt ≤ 2 ^ 62) ∧
    (∀ k : Mat2 Word, -(2 : Int) ^ 63 + 2 ^ 31 ≤ detOf k ∧ detOf k ≤ 2 ^ 63 - 2 ^ 31 ∧
      (BitVec.ofInt 64 (detOf k)).toInt = detOf k) ∧
      detOf ⟨0x80000000#32, 0x7FFFFFFF#32, 0x80000000#32, 0x80000000#32⟩ = 2 ^ 63 - 2 ^ 31 ∧
        BitVec.ofInt 64 ((2 : Int) ^ 63 - 2 ^ 31) = 0x7FFFFFFF80000000#64 ∧ isUnit26 0 = false

/-- R117: MDET writes the exact determinant, its residue and DETV, completes with success, and changes nothing else. -/
def Obligations.MdetWritesExactDeterminant : Prop :=
  decode 0x00000001#32 = .ok .mdet ∧
    ∀ s : State, ∃ t, exec .mdet s = .next t ∧
      t = { s with
            det := t.det, detm := t.detm, detv := true, done := true, err := false, ecode := .success } ∧
        t.det.toInt = detOf s.k ∧ (t.detm.val : Int) = detOf s.k % 26

/-- R118: MINV writes DET, DETM and DETV; with a valid key DINV, KI and KIV and success; otherwise zeros and InvalidKey. It
changes nothing else, OBUF and OLEN included. -/
def Obligations.MinvWritesInverseOrInvalidKey : Prop :=
  decode 0x00000002#32 = .ok .minv ∧
    ∀ s : State, ∃ t, exec .minv s = .next t ∧ t.det.toInt = detOf s.k ∧ (t.detm.val : Int) = detOf s.k % 26 ∧
      (keyGood s.k →
        t = { s with
              det := t.det, detm := t.detm, detv := true, dinv := t.dinv, ki := t.ki, kiv := true, done := true,
              err := false, ecode := .success } ∧
          (t.detm.val * t.dinv.val) % 26 = 1 ∧ (t.ki.m00.val : Int) = (t.dinv.val * s.k.m11.toInt) % 26 ∧
            (t.ki.m01.val : Int) = (t.dinv.val * -s.k.m01.toInt) % 26 ∧
              (t.ki.m10.val : Int) = (t.dinv.val * -s.k.m10.toInt) % 26 ∧
                (t.ki.m11.val : Int) = (t.dinv.val * s.k.m00.toInt) % 26) ∧
        (¬keyGood s.k →
          t = { s with
                det := t.det, detm := t.detm, detv := true, dinv := 0, ki := ⟨0, 0, 0, 0⟩, kiv := false, done := true,
                err := true, ecode := .invalidKey, estk := s.estk ||| 0b00001#5 })

/-- R121: the matrix `minv26` returns is an inverse modulo 26 on both sides, and the only one with entries in [0, 25]. -/
def Obligations.InverseMatrixIsTheInverse : Prop :=
  ∀ (m : Mat2 Int) (dm di : Fin 26) (q : Mat2 (Fin 26)), minv26 m = some (dm, di, q) →
    ((m.m00 * q.m00.val + m.m01 * q.m10.val) % 26 = 1 ∧ (m.m00 * q.m01.val + m.m01 * q.m11.val) % 26 = 0 ∧
      (m.m10 * q.m00.val + m.m11 * q.m10.val) % 26 = 0 ∧ (m.m10 * q.m01.val + m.m11 * q.m11.val) % 26 = 1) ∧
    ((q.m00.val * m.m00 + q.m01.val * m.m10) % 26 = 1 ∧ (q.m00.val * m.m01 + q.m01.val * m.m11) % 26 = 0 ∧
      (q.m10.val * m.m00 + q.m11.val * m.m10) % 26 = 0 ∧ (q.m10.val * m.m01 + q.m11.val * m.m11) % 26 = 1) ∧
    ∀ r : Mat2 (Fin 26),
      (m.m00 * r.m00.val + m.m01 * r.m10.val) % 26 = 1 → (m.m00 * r.m01.val + m.m01 * r.m11.val) % 26 = 0 →
        (m.m10 * r.m00.val + m.m11 * r.m10.val) % 26 = 0 → (m.m10 * r.m01.val + m.m11 * r.m11.val) % 26 = 1 →
          r = q

/-- R116: reducing the entries modulo 26 first changes neither the residue of the determinant nor the outcome of `minv26`; the
rule's example. -/
def Obligations.ReducingEntriesFirstChangesNothing : Prop :=
  (∀ m : Mat2 Int, mod26 (det2 (m.map fun z => z % 26)) = mod26 (det2 m) ∧
    minv26 (m.map fun z => z % 26) = minv26 m) ∧
    minv26 ⟨33, 34, 36, 29⟩ = some (19, 11, ⟨7, 16, 20, 25⟩) ∧ minv26 ⟨7, 8, 10, 3⟩ = some (19, 11, ⟨7, 16, 20, 25⟩) ∧
      det2 ⟨33, 34, 36, 29⟩ = -267 ∧ det2 ⟨7, 8, 10, 3⟩ = -59

/-! ## The alphabetic matrix cipher -/

/-- R13: which bytes are letters, their indices, the bytes of the indices, and `strip`. -/
def Obligations.AlphabetMapping : Prop :=
  (∀ b : Byte, 0x41 ≤ b.toNat → b.toNat ≤ 0x5A → ∃ i, letterIndex b = some i ∧ i.val = b.toNat - 0x41) ∧
    (∀ b : Byte, 0x61 ≤ b.toNat → b.toNat ≤ 0x7A → ∃ i, letterIndex b = some i ∧ i.val = b.toNat - 0x61) ∧
      (∀ b : Byte, b.toNat < 0x41 ∨ 0x5A < b.toNat ∧ b.toNat < 0x61 ∨ 0x7A < b.toNat → letterIndex b = none) ∧
        (∀ i : Fin 26, (chr26 i).toNat = 0x41 + i.val ∧ letterIndex (chr26 i) = some i) ∧
          strip [] = [] ∧ ∀ (b : Byte) (s : List Byte), strip (b :: s) = (letterIndex b).toList ++ strip s

/-- R134: the two orientations written out, that ROW with M is COL with the transpose of M, and that reducing the entries of M
first gives the same. -/
def Obligations.ApplyInBothOrientations : Prop :=
  ∀ (m : Mat2 Int) (v0 v1 : Fin 26),
    (((applyBlock .col m v0 v1).1.val : Int) = (m.m00 * v0.val + m.m01 * v1.val) % 26 ∧
      ((applyBlock .col m v0 v1).2.val : Int) = (m.m10 * v0.val + m.m11 * v1.val) % 26) ∧
    (((applyBlock .row m v0 v1).1.val : Int) = (v0.val * m.m00 + v1.val * m.m10) % 26 ∧
      ((applyBlock .row m v0 v1).2.val : Int) = (v0.val * m.m01 + v1.val * m.m11) % 26) ∧
    applyBlock .row m v0 v1 = applyBlock .col ⟨m.m00, m.m10, m.m01, m.m11⟩ v0 v1 ∧
    ∀ o, applyBlock o (m.map fun z => z % 26) v0 v1 = applyBlock o m v0 v1

/-- R136: HENC always succeeds, writes exactly the encoded letters, two for each block of the stripped and filled text, and
changes nothing else. -/
def Obligations.HencEncodesEveryBlock : Prop :=
  decode 0x00000010#32 = .ok .henc ∧
    ∀ s : State, ∃ t v, exec .henc s = .next t ∧
      t = { s with obuf := t.obuf, olen := t.olen, done := true, err := false, ecode := .success } ∧
        (v = if (strip (message s)).length % 2 = 1 then strip (message s) ++ [10] else strip (message s)) ∧
          t.olen = v.length ∧ v.length % 2 = 0 ∧ t.olen ≤ s.ilen + 1 ∧
            (∀ b x0 x1, v[2 * b]? = some x0 → v[2 * b + 1]? = some x1 →
              Memory.read t.obuf (2 * b) = chr26 (applyBlock s.cfg.orient (keyMatrix s) x0 x1).1 ∧
                Memory.read t.obuf (2 * b + 1) = chr26 (applyBlock s.cfg.orient (keyMatrix s) x0 x1).2) ∧
              ∀ o, t.olen ≤ o → Memory.read t.obuf o = 0

/-- R137: HDEC. An invalid key gives InvalidKey for any text; a valid key with an odd letter count gives MalformedInput with the
inverse registers valid; otherwise the decoded letters. Nothing else changes. -/
def Obligations.HdecDecodesOrReportsWhy : Prop :=
  decode 0x00000011#32 = .ok .hdec ∧
    ∀ s : State, ∃ t, exec .hdec s = .next t ∧ t.det.toInt = detOf s.k ∧ (t.detm.val : Int) = detOf s.k % 26 ∧
      (¬keyGood s.k →
        t = { s with
              det := t.det, detm := t.detm, detv := true, dinv := 0, ki := ⟨0, 0, 0, 0⟩, kiv := false, obuf := [],
              olen := 0, done := true, err := true, ecode := .invalidKey, estk := s.estk ||| 0b00001#5 }) ∧
      (keyGood s.k → minv26 (keyMatrix s) = some (t.detm, t.dinv, t.ki) ∧
        ((strip (message s)).length % 2 = 1 →
          t = { s with
                det := t.det, detm := t.detm, detv := true, dinv := t.dinv, ki := t.ki, kiv := true, obuf := [],
                olen := 0, done := true, err := true, ecode := .malformedInput, estk := s.estk ||| 0b00010#5 }) ∧
        ((strip (message s)).length % 2 = 0 →
          t = { s with
                det := t.det, detm := t.detm, detv := true, dinv := t.dinv, ki := t.ki, kiv := true, obuf := t.obuf,
                olen := t.olen, done := true, err := false, ecode := .success } ∧
            t.olen = (strip (message s)).length ∧ t.olen ≤ s.ilen ∧
              (∀ b x0 x1, (strip (message s))[2 * b]? = some x0 → (strip (message s))[2 * b + 1]? = some x1 →
                Memory.read t.obuf (2 * b) = chr26 (applyBlock s.cfg.orient (t.ki.map residue) x0 x1).1 ∧
                  Memory.read t.obuf (2 * b + 1) = chr26 (applyBlock s.cfg.orient (t.ki.map residue) x0 x1).2) ∧
                ∀ o, t.olen ≤ o → Memory.read t.obuf o = 0))

/-- R138: HENC, copy the output to the input, HDEC with the same key: both succeed and the letters come back, upper-cased, with
one 'K' (0x4B) after an odd number of them. -/
def Obligations.HillRoundTrip : Prop :=
  ∀ s : State, keyGood s.k → Memory.wf s.ibuf = true →
    ∃ t u, exec .henc s = .next t ∧ t.ecode = .success ∧ exec .hdec (feedBack t) = .next u ∧ u.ecode = .success ∧
      OutputIs u
        (if (strip (message s)).length % 2 = 0 then lettersOf (message s) else lettersOf (message s) ++ [0x4B#8])

/-- R141: HENC after HDEC also returns the letters, when there is an even number of them. -/
def Obligations.EncodingUndoesDecoding : Prop :=
  ∀ s : State, keyGood s.k → Memory.wf s.ibuf = true → (strip (message s)).length % 2 = 0 →
    ∃ t u, exec .hdec s = .next t ∧ t.ecode = .success ∧ exec .henc (feedBack t) = .next u ∧
      OutputIs u (lettersOf (message s))

/-- R140: with a key whose determinant has no inverse modulo 26, HDEC ends with InvalidKey for every input and writes no output
letter; determinants 0, 2, 13 and 26 are such. -/
def Obligations.InvalidKeyNeverDecodes : Prop :=
  ∀ s : State,
    (¬keyGood s.k → ∃ t, exec .hdec s = .next t ∧ t.err = true ∧ t.ecode = .invalidKey ∧ OutputIs t []) ∧
      (detOf s.k ∈ [0, 2, 13, 26] → ¬keyGood s.k)

/-! ## Derivation, padding, chained blocks -/

/-- KDRV (R152) writes KEY from the password and SALT, sets KEYV, completes with success, and changes nothing else. -/
def Obligations.KdrvDerivesTheKey : Prop :=
  decode 0x00000020#32 = .ok .kdrv ∧
    ∀ s : State, exec .kdrv s = .next
      { s with
        key := Config.kdf s.cfg.iter (password s) s.salt, keyv := true, done := true, err := false, ecode := .success }

/-- The default derivation (R153) with a PRF of 32 bytes: one block, T_1, and no other; T_1 is the exclusive-or of the c
iterates U_1 = PRF(P, S ‖ 00 00 00 01), U_(j+1) = PRF(P, U_j). -/
def Obligations.DefaultKdfIsOneBlock : Prop :=
  ∀ (prf : List Byte → List Byte → List Byte) (pw salt : List Byte) (c : Nat),
    (∀ k m, (prf k m).length = 32) → 1 ≤ c →
      pbkdf2 prf 32 pw salt c 32 =
          ((List.range (c - 1)).foldl
            (fun (p : List Byte × List Byte) _ => (prf pw p.1, xorBytes p.2 (prf pw p.1)))
            (prf pw (salt ++ [0, 0, 0, 1]), prf pw (salt ++ [0, 0, 0, 1]))).2 ∧
        (pbkdf2 prf 32 pw salt c 32).length = 32

/-- R160: what `pad16` appends, and the length of its result. -/
def Obligations.PaddingShape : Prop :=
  ∀ s : List Byte, ∃ p, p = 16 - s.length % 16 ∧ 1 ≤ p ∧ p ≤ 16 ∧
    pad16 s = s ++ List.replicate p (BitVec.ofNat 8 p) ∧ (pad16 s).length = s.length + p ∧
      (pad16 s).length % 16 = 0 ∧ 16 ≤ (pad16 s).length

/-- R161: exactly when `unpad16` returns a string, and which. -/
def Obligations.UnpaddingIsStrict : Prop :=
  ∀ t r : List Byte, 0 < t.length → t.length % 16 = 0 →
    (unpad16 t = some r ↔
      ∃ p : Byte, t[t.length - 1]? = some p ∧ 1 ≤ p.toNat ∧ p.toNat ≤ 16 ∧
        (∀ i, t.length - p.toNat ≤ i → i < t.length → t[i]? = some p) ∧ r = t.take (t.length - p.toNat))

/-- R164: `unpad16` inverts `pad16`, and succeeds on exactly its image. -/
def Obligations.UnpadInvertsPad : Prop :=
  (∀ s : List Byte, unpad16 (pad16 s) = some s) ∧
    ∀ t r : List Byte, 0 < t.length → t.length % 16 = 0 → (unpad16 t = some r ↔ pad16 r = t)

/-- R162: PAD writes the padded message, always succeeds, and changes nothing else. -/
def Obligations.PadWritesPaddedMessage : Prop :=
  decode 0x00000030#32 = .ok .pad ∧
    ∀ s : State, ∃ t, exec .pad s = .next t ∧
      t = { s with obuf := t.obuf, olen := t.olen, done := true, err := false, ecode := .success } ∧
        OutputIs t (pad16 (message s)) ∧ t.olen = s.ilen + (16 - s.ilen % 16)

/-- R163: UNPD, its two errors in their order, and its result. Nothing else changes. -/
def Obligations.UnpdStripsOrReportsWhy : Prop :=
  decode 0x00000031#32 = .ok .unpd ∧
    ∀ s : State, ∃ t, exec .unpd s = .next t ∧
      (s.ilen = 0 ∨ s.ilen % 16 ≠ 0 →
        t = { s with
              obuf := [], olen := 0, done := true, err := true, ecode := .malformedInput,
              estk := s.estk ||| 0b00010#5 }) ∧
      (s.ilen ≠ 0 → s.ilen % 16 = 0 → unpad16 (message s) = none →
        t = { s with
              obuf := [], olen := 0, done := true, err := true, ecode := .invalidPadding,
              estk := s.estk ||| 0b00100#5 }) ∧
      ∀ r, s.ilen ≠ 0 → s.ilen % 16 = 0 → unpad16 (message s) = some r →
        t = { s with obuf := t.obuf, olen := t.olen, done := true, err := false, ecode := .success } ∧ OutputIs t r

/-- R171 and R174: the chaining equations block by block, for any one-block function, on a string of whole blocks. -/
def Obligations.ChainingEquations : Prop :=
  (∀ (a b : Block) (i : Fin 16), (xorBlock a b)[i] = a[i] ^^^ b[i]) ∧
    ∀ (f : Block → Block) (iv : Block) (x : List Byte) (m : Nat), x.length = 16 * m → 1 ≤ m →
      (cbcEnc f iv x).length = x.length ∧ (cbcDec f iv x).length = x.length ∧
        ∀ i, i < m →
          blockAt (cbcEnc f iv x) i = f (xorBlock (blockAt x i) (if i = 0 then iv else blockAt (cbcEnc f iv x) (i - 1))) ∧
            blockAt (cbcDec f iv x) i = xorBlock (f (blockAt x i)) (if i = 0 then iv else blockAt x (i - 1))

/-- R175, the two laws: decryption inverts encryption and conversely, for every key and IV, by the constraints of R8 alone. -/
def Obligations.ChainedBlockRoundTrip : Prop :=
  ∀ (k : Key) (iv : Block) (x : List Byte), 0 < x.length → x.length % 16 = 0 →
    cbcDec (Config.blockDec k) iv (cbcEnc (Config.blockEnc k) iv x) = x ∧
      cbcEnc (Config.blockEnc k) iv (cbcDec (Config.blockDec k) iv x) = x

/-- R172: CBCE, its two errors in their order, and its result. Nothing else changes. -/
def Obligations.CbceEncryptsOrReportsWhy : Prop :=
  decode 0x00000040#32 = .ok .cbce ∧
    ∀ s : State, ∃ t, exec .cbce s = .next t ∧
      (s.keyv = false →
        t = { s with
              obuf := [], olen := 0, done := true, err := true, ecode := .noKey, estk := s.estk ||| 0b01000#5 }) ∧
      (s.keyv = true → s.ilen = 0 ∨ s.ilen % 16 ≠ 0 →
        t = { s with
              obuf := [], olen := 0, done := true, err := true, ecode := .malformedInput,
              estk := s.estk ||| 0b00010#5 }) ∧
      (s.keyv = true → s.ilen ≠ 0 → s.ilen % 16 = 0 →
        t = { s with obuf := t.obuf, olen := s.ilen, done := true, err := false, ecode := .success } ∧
          OutputIs t (cbcEnc (Config.blockEnc s.key) s.iv (message s)))

/-- R173: CBCD, its two errors in their order, and its result. Nothing else changes. -/
def Obligations.CbcdDecryptsOrReportsWhy : Prop :=
  decode 0x00000041#32 = .ok .cbcd ∧
    ∀ s : State, ∃ t, exec .cbcd s = .next t ∧
      (s.keyv = false →
        t = { s with
              obuf := [], olen := 0, done := true, err := true, ecode := .noKey, estk := s.estk ||| 0b01000#5 }) ∧
      (s.keyv = true → s.ilen = 0 ∨ s.ilen % 16 ≠ 0 →
        t = { s with
              obuf := [], olen := 0, done := true, err := true, ecode := .malformedInput,
              estk := s.estk ||| 0b00010#5 }) ∧
      (s.keyv = true → s.ilen ≠ 0 → s.ilen % 16 = 0 →
        t = { s with obuf := t.obuf, olen := s.ilen, done := true, err := false, ecode := .success } ∧
          OutputIs t (cbcDec (Config.blockDec s.key) s.iv (message s)))

/-! ## The pipeline -/

/-- R183: ENCR takes the draw (a free value, log entry 5) as salt and IV, writes the frame, leaves no key behind, always succeeds, and changes nothing
else. -/
def Obligations.EncrWritesTheFrame : Prop :=
  decode 0x00000050#32 = .ok .encr ∧
    ∀ s : State, ∃ t, exec .encr s = .next t ∧
      t = { s with
            salt := t.salt, iv := t.iv, key := Vector.replicate 32 0, keyv := false, obuf := t.obuf, olen := t.olen,
            draws := s.draws + 1, done := true, err := false, ecode := .success } ∧
        t.salt.toList ++ t.iv.toList = (Config.rand s.draws).toList ∧
          OutputIs t
            (t.salt.toList ++ t.iv.toList ++
              cbcEnc (Config.blockEnc (Config.kdf s.cfg.iter (password s) t.salt)) t.iv (pad16 (message s))) ∧
            t.olen = 32 + s.ilen + (16 - s.ilen % 16)

/-- R184: DECR. A malformed frame changes nothing but the output and the status; otherwise SALT and IV are the frame's header,
the key is gone, and the result is the unpadded text or InvalidPadding. Nothing else changes. -/
def Obligations.DecrOpensTheFrameOrReportsWhy : Prop :=
  decode 0x00000051#32 = .ok .decr ∧
    ∀ s : State, ∃ t, exec .decr s = .next t ∧
      (s.ilen ≤ 32 ∨ (s.ilen - 32) % 16 ≠ 0 →
        t = { s with
              obuf := [], olen := 0, done := true, err := true, ecode := .malformedInput,
              estk := s.estk ||| 0b00010#5 }) ∧
      (32 < s.ilen → (s.ilen - 32) % 16 = 0 →
        t.salt.toList = (message s).take 16 ∧ t.iv.toList = ((message s).drop 16).take 16 ∧
          ∀ x, x = cbcDec (Config.blockDec (Config.kdf s.cfg.iter (password s) t.salt)) t.iv ((message s).drop 32) →
            (unpad16 x = none →
              t = { s with
                    salt := t.salt, iv := t.iv, key := Vector.replicate 32 0, keyv := false, obuf := [], olen := 0,
                    done := true, err := true, ecode := .invalidPadding, estk := s.estk ||| 0b00100#5 }) ∧
              ∀ r, unpad16 x = some r →
                t = { s with
                      salt := t.salt, iv := t.iv, key := Vector.replicate 32 0, keyv := false, obuf := t.obuf,
                      olen := t.olen, done := true, err := false, ecode := .success } ∧
                  OutputIs t r ∧ t.olen ≤ s.ilen - 33)

/-- R185: ENCR, copy the frame to the input, DECR with the same password: both succeed and the message comes back exactly, for
every draw. -/
def Obligations.EncryptDecryptRoundTrip : Prop :=
  ∀ s : State, Memory.wf s.ibuf = true →
    ∃ t u, exec .encr s = .next t ∧ t.ecode = .success ∧ exec .decr (feedBack t) = .next u ∧ u.ecode = .success ∧
      OutputIs u (message s)

/-- R189, the output, OLEN, ERR, ECODE and KEYV. ENCR gives the output of KDRV, PAD, copy, CBCE with the draw (a free value, log
entry 5) as SALT and IV, after the 32 bytes of the header. On a well-formed frame DECR gives the same output, length, ERR and
ECODE as KDRV, CBCD on the frame's body, copy, UNPD with the header as SALT and IV. The sequences leave KEYV = 1. The rest of
the end states is not compared: KEY, IBUF, ILEN and the count of draws differ too. -/
def Obligations.PipelineEqualsPrimitiveCommands : Prop :=
  ∀ s : State, Memory.wf s.ibuf = true →
    (∃ t a b c, exec .encr s = .next t ∧ exec .kdrv { s with salt := t.salt, iv := t.iv } = .next a ∧
      exec .pad a = .next b ∧ exec .cbce (feedBack b) = .next c ∧
        t.salt.toList ++ t.iv.toList = (Config.rand s.draws).toList ∧
          output t = t.salt.toList ++ t.iv.toList ++ output c ∧ t.olen = 32 + c.olen ∧ c.err = t.err ∧
          c.ecode = t.ecode ∧ c.keyv = true ∧ t.keyv = false) ∧
    (32 < s.ilen → (s.ilen - 32) % 16 = 0 →
      ∃ t a b c, exec .decr s = .next t ∧ exec .kdrv { s with salt := t.salt, iv := t.iv } = .next a ∧
        exec .cbcd (loadInput ((message s).drop 32) a) = .next b ∧ exec .unpd (feedBack b) = .next c ∧
          t.salt.toList = (message s).take 16 ∧ t.iv.toList = ((message s).drop 16).take 16 ∧
            output t = output c ∧ t.olen = c.olen ∧ t.err = c.err ∧ t.ecode = c.ecode ∧ c.keyv = true ∧ t.keyv = false)

/-! ## Control, and rules over all commands -/

/-- R200: NOP does `Complete(0)` and nothing else. -/
def Obligations.NopOnlyCompletes : Prop :=
  decode 0x00000000#32 = .ok .nop ∧
    ∀ s : State, exec .nop s = .next { s with done := true, err := false, ecode := .success }

/-- R201: CLR zeroizes the pipeline state and the buffers, completes with success, and leaves the matrix unit and ESTK. -/
def Obligations.ClrZeroizesThePipeline : Prop :=
  decode 0x0000007F#32 = .ok .clr ∧
    ∀ s : State, exec .clr s = .next
      { s with
        key := Vector.replicate 32 0, keyv := false, salt := Vector.replicate 16 0, iv := Vector.replicate 16 0, pbuf := [],
        plen := 0, ibuf := [], ilen := 0, obuf := [], olen := 0, done := true, err := false, ecode := .success }

/-- R40 and R188: what each command does to KEY and KEYV. -/
def Obligations.KeyLivesOnlyAfterKdrv : Prop :=
  ∀ (i : Instr) (s : State), ∃ t, exec i s = .next t ∧
    (i = .kdrv → t.keyv = true) ∧
      (i = .encr ∨ i = .clr ∨ i = .decr ∧ 32 < s.ilen ∧ (s.ilen - 32) % 16 = 0 →
        t.keyv = false ∧ t.key = Vector.replicate 32 0) ∧
        (i ≠ .kdrv → i ≠ .encr → i ≠ .clr → (i = .decr → s.ilen ≤ 32 ∨ (s.ilen - 32) % 16 ≠ 0) →
          t.keyv = s.keyv ∧ t.key = s.key)

/-- R3: a matrix command neither reads nor writes the pipeline's state, and a pipeline command neither reads nor writes the
matrix unit's: replacing that state before the command is the same as replacing it after. -/
def Obligations.ComponentsAreIndependent : Prop :=
  (∀ (i : Instr) (s p : State), isMatrixFamily i = true →
    ∃ t, exec i s = .next t ∧ withPipeline t s = t ∧ exec i (withPipeline s p) = .next (withPipeline t p)) ∧
    ∀ (i : Instr) (s p : State), isPipelineFamily i = true →
      ∃ t, exec i s = .next t ∧ withMatrix t s = t ∧ exec i (withMatrix s p) = .next (withMatrix t p)

/-- R41, R42 and U19: bytes of IBUF and PBUF at or beyond ILEN and PLEN influence no command, and no command but CLR writes the
two buffers: with other such bytes the result differs in them only. -/
def Obligations.BytesBeyondLengthsAreIgnored : Prop :=
  ∀ (i : Instr) (s : State) (ibuf pbuf : Memory),
    (∀ o, o < s.ilen → Memory.read ibuf o = Memory.read s.ibuf o) →
      (∀ o, o < s.plen → Memory.read pbuf o = Memory.read s.pbuf o) →
        ∃ t, exec i s = .next t ∧
          exec i { s with ibuf := ibuf, pbuf := pbuf } =
            .next (if i = .clr then t else { t with ibuf := ibuf, pbuf := pbuf }) ∧
            (i ≠ .clr → t.ibuf = s.ibuf ∧ t.pbuf = s.pbuf ∧ t.ilen = s.ilen ∧ t.plen = s.plen) ∧ t.k = s.k
end

