-- ==== Sys2Proof/Laws/Arith.lean ====
section
/-! SUPPORT. What the arithmetic operations answer: the floored remainder as an integer, the units, the inverse, the success of
`minv26`. -/

namespace Sys2Proof.Machine

@[simp] theorem residue_mod26 (z : Int) : residue (mod26 z) = z % 26 := by
  simp only [residue, mod26]; omega

theorem val_mod26 (z : Int) : ((mod26 z).val : Int) = z % 26 := by
  simp only [mod26]; omega

/-- The remainder depends on the residue class only. -/
theorem mod26_congr {a b : Int} (h : a % 26 = b % 26) : mod26 a = mod26 b := by
  apply Fin.ext
  have ha := val_mod26 a
  have hb := val_mod26 b
  omega

theorem mod26_residue (d : Fin 26) : mod26 (residue d) = d := by
  apply Fin.ext
  have := val_mod26 (residue d)
  simp only [residue] at this ⊢
  omega

/-- Every unit has an inverse, and a product with it of residue 1. -/
theorem inv26_of_unit (d : Fin 26) (h : isUnit26 d = true) :
    ∃ x, inv26 d = some x ∧ d.val * x.val % 26 = 1 := by
  revert d; decide

/-- When `minv26` answers, its three parts. -/
theorem minv26_some {m : Mat2 Int} {dm di : Fin 26} {q : Mat2 (Fin 26)} (h : minv26 m = some (dm, di, q)) :
    validKey m = true ∧ dm = mod26 (det2 m) ∧ inv26 dm = some di ∧ q = (adj2 m).map fun a => mod26 (residue di * a) := by
  simp only [minv26] at h
  split at h
  · rename_i hu
    split at h
    · rename_i x hx
      simp only [Option.some.injEq, Prod.mk.injEq] at h
      obtain ⟨rfl, rfl, rfl⟩ := h
      exact ⟨hu, rfl, hx, rfl⟩
    · cases h
  · cases h

/-- `minv26` answers exactly for the valid keys. -/
theorem minv26_eq_of_valid (m : Mat2 Int) (h : validKey m = true) :
    ∃ di, inv26 (mod26 (det2 m)) = some di ∧
      minv26 m = some (mod26 (det2 m), di, (adj2 m).map fun a => mod26 (residue di * a)) := by
  obtain ⟨di, hi, -⟩ := inv26_of_unit _ h
  refine ⟨di, hi, ?_⟩
  have hu : isUnit26 (mod26 (det2 m)) = true := h
  simp [minv26, hu, hi]

theorem minv26_eq_none (m : Mat2 Int) (h : validKey m = false) : minv26 m = none := by
  have hu : isUnit26 (mod26 (det2 m)) = false := h
  simp [minv26, hu]

end Sys2Proof.Machine
end

