-- ==== Sys2Proof/Laws/Memory.lean ====
section
/-! SUPPORT. The laws of a byte buffer: a read after a write, what a write leaves alone, and that every operation keeps the
canonical form. -/

namespace Sys2Proof.Machine

@[simp] theorem Memory.read_nil (a : Nat) : Memory.read [] a = 0 := rfl

/-- A write changes the byte at its own offset and no other. -/
theorem Memory.read_write (m : Memory) (a : Nat) (v : Byte) (hm : Memory.wf m = true) (x : Nat) :
    Memory.read (Memory.write m a v) x = if x = a then v else Memory.read m x := by
  induction m with
  | nil =>
    simp only [Memory.write]
    split <;> simp_all [Memory.read, Memory.unlisted]
  | cons c m ih =>
    obtain ⟨b, w⟩ := c
    simp only [Memory.wf, Bool.and_eq_true, decide_eq_true_eq, List.all_eq_true] at hm
    obtain ⟨⟨hw, hlt⟩, hm⟩ := hm
    have absent : ∀ y, y ≤ b → Memory.read m y = 0 := by
      intro y hy
      clear ih hm hw
      induction m with
      | nil => rfl
      | cons d m ih2 =>
        have hd := hlt d (by simp)
        have : y ≠ d.1 := by omega
        simp only [Memory.read, if_neg this]
        exact ih2 fun c hc => hlt c (by simp [hc])
    have ih := ih hm
    simp only [Memory.write]
    split
    · rename_i hab
      have hr := absent a (by omega)
      have : a ≠ b := by omega
      split
      · rename_i hv
        by_cases hx : x = a
        · subst hx; simp [Memory.read, this, hr, hv, Memory.unlisted]
        · simp [hx]
      · by_cases hx : x = a <;> simp [Memory.read, hx]
    · split
      · rename_i _ hab
        subst hab
        split
        · rename_i hv
          by_cases hx : x = a
          · subst hx; simp [absent x (by omega), hv, Memory.unlisted]
          · simp [Memory.read, hx]
        · by_cases hx : x = a <;> simp [Memory.read, hx]
      · rename_i h1 h2
        by_cases hx : x = b
        · subst hx
          have : x ≠ a := fun h => h2 h.symm
          simp [Memory.read, this]
        · simp [Memory.read, hx, ih]

/-- The offsets a write can list are those listed before and its own. -/
theorem Memory.mem_write (m : Memory) (a : Nat) (v : Byte) (c : Host.Cell) (h : c ∈ Memory.write m a v) :
    c.1 = a ∨ c ∈ m := by
  induction m with
  | nil =>
    simp only [Memory.write] at h
    split at h <;> simp_all
  | cons d m ih =>
    obtain ⟨b, w⟩ := d
    simp only [Memory.write] at h
    split at h
    · split at h
      · exact .inr h
      · rcases List.mem_cons.mp h with rfl | h
        · exact .inl rfl
        · exact .inr h
    · split at h
      · split at h
        · exact .inr (List.mem_cons_of_mem _ h)
        · rcases List.mem_cons.mp h with rfl | h
          · exact .inl rfl
          · exact .inr (List.mem_cons_of_mem _ h)
      · rcases List.mem_cons.mp h with rfl | h
        · exact .inr (by simp)
        · exact (ih h).imp id (List.mem_cons_of_mem _)

/-- A write keeps the canonical form. -/
theorem Memory.wf_write (m : Memory) (a : Nat) (v : Byte) (hm : Memory.wf m = true) :
    Memory.wf (Memory.write m a v) = true := by
  induction m with
  | nil =>
    simp only [Memory.write]
    split <;> simp_all [Memory.wf]
  | cons c m ih =>
    obtain ⟨b, w⟩ := c
    have whole := hm
    simp only [Memory.wf, Bool.and_eq_true, decide_eq_true_eq, List.all_eq_true] at hm
    obtain ⟨⟨hw, hlt⟩, hm⟩ := hm
    simp only [Memory.write]
    split
    · rename_i hab
      split
      · exact whole
      · rename_i hv
        simp only [Memory.wf, Bool.and_eq_true, decide_eq_true_eq, List.all_eq_true]
        refine ⟨⟨hv, fun c hc => ?_⟩, ⟨hw, hlt⟩, hm⟩
        rcases List.mem_cons.mp hc with rfl | hc
        · exact hab
        · exact Nat.lt_trans hab (hlt c hc)
    · split
      · rename_i _ hab
        subst hab
        split
        · exact hm
        · rename_i hv
          simp only [Memory.wf, Bool.and_eq_true, decide_eq_true_eq, List.all_eq_true]
          exact ⟨⟨hv, hlt⟩, hm⟩
      · simp only [Memory.wf, Bool.and_eq_true, decide_eq_true_eq, List.all_eq_true]
        refine ⟨⟨hw, fun c hc => ?_⟩, ih hm⟩
        rcases Memory.mem_write m a v c hc with h | h
        · omega
        · exact hlt c h

/-- A write below the capacity keeps every listed offset below it. -/
theorem Memory.below_write (cap : Nat) (m : Memory) (a : Nat) (v : Byte) (ha : a < cap)
    (hm : Memory.below cap m = true) : Memory.below cap (Memory.write m a v) = true := by
  simp only [Memory.below, List.all_eq_true, decide_eq_true_eq] at hm ⊢
  intro c hc
  rcases Memory.mem_write m a v c hc with h | h
  · omega
  · exact hm c h

/-- An offset at or beyond the bound of the listed ones reads as 0. -/
theorem Memory.read_beyond (cap : Nat) (m : Memory) (hm : Memory.below cap m = true) (x : Nat) (hx : cap ≤ x) :
    Memory.read m x = 0 := by
  induction m with
  | nil => rfl
  | cons c m ih =>
    obtain ⟨b, w⟩ := c
    simp only [Memory.below, List.all_cons, Bool.and_eq_true, decide_eq_true_eq] at hm
    have : x ≠ b := by omega
    simp only [Memory.read, if_neg this]
    exact ih (by simpa [Memory.below] using hm.2)

/-- Writing a byte string keeps the canonical form. -/
theorem Memory.wf_writeBytes (m : Memory) (a : Nat) (bs : List Byte) (hm : Memory.wf m = true) :
    Memory.wf (Memory.writeBytes m a bs) = true := by
  induction bs generalizing m a with
  | nil => exact hm
  | cons b bs ih => exact ih _ _ (Memory.wf_write m a b hm)

/-- Writing a byte string below the capacity keeps every listed offset below it. -/
theorem Memory.below_writeBytes (cap : Nat) (m : Memory) (a : Nat) (bs : List Byte) (ha : a + bs.length ≤ cap)
    (hm : Memory.below cap m = true) : Memory.below cap (Memory.writeBytes m a bs) = true := by
  induction bs generalizing m a with
  | nil => exact hm
  | cons b bs ih =>
    simp only [List.length_cons] at ha
    exact ih _ _ (by omega) (Memory.below_write cap m a b (by omega) hm)

/-- Every byte after writing a byte string: the string's own inside it, the old one outside. -/
theorem Memory.read_writeBytes (m : Memory) (a : Nat) (bs : List Byte) (hm : Memory.wf m = true) (x : Nat) :
    Memory.read (Memory.writeBytes m a bs) x =
      if a ≤ x ∧ x < a + bs.length then bs.getD (x - a) 0 else Memory.read m x := by
  induction bs generalizing m a with
  | nil =>
    have : ¬(a ≤ x ∧ x < a) := by omega
    simp [Memory.writeBytes, this]
  | cons b bs ih =>
    simp only [Memory.writeBytes, ih _ _ (Memory.wf_write m a b hm), Memory.read_write m a b hm,
      List.length_cons]
    by_cases h1 : x = a
    · subst h1; simp
    · by_cases h2 : a + 1 ≤ x ∧ x < a + 1 + bs.length
      · rw [if_pos h2, if_pos (by omega)]
        obtain ⟨n, hn⟩ : ∃ n, x - a = n + 1 := ⟨x - a - 1, by omega⟩
        have : x - (a + 1) = n := by omega
        simp [hn, this]
      · rw [if_neg h2, if_neg h1, if_neg (by omega)]

@[simp] theorem Memory.length_readBytes (m : Memory) (a n : Nat) : (Memory.readBytes m a n).length = n := by
  simp [Memory.readBytes]

/-- The byte string just written reads back. -/
theorem Memory.readBytes_writeBytes (m : Memory) (a : Nat) (bs : List Byte) (hm : Memory.wf m = true) :
    Memory.readBytes (Memory.writeBytes m a bs) a bs.length = bs := by
  apply List.ext_getElem
  · simp
  · intro i h1 h2
    simp only [Memory.readBytes, List.getElem_map, List.getElem_range, Memory.read_writeBytes m a bs hm]
    rw [if_pos (by omega)]
    simp [h2]

/-- Only the bytes of the string matter for a read of it. -/
theorem Memory.readBytes_congr (m m' : Memory) (a n : Nat)
    (h : ∀ i, i < n → Memory.read m (a + i) = Memory.read m' (a + i)) :
    Memory.readBytes m a n = Memory.readBytes m' a n := by
  simp only [Memory.readBytes]
  exact List.map_congr_left fun i hi => h i (List.mem_range.mp hi)

/-- In canonical form, memories that read alike at every offset are equal data. -/
theorem Memory.ext_of_read (m m' : Memory) (hm : Memory.wf m = true) (hm' : Memory.wf m' = true)
    (h : ∀ x, Memory.read m x = Memory.read m' x) : m = m' := by
  have gone : ∀ (m : Memory) (b : Nat), (∀ c ∈ m, b < c.1) → ∀ y, y ≤ b → Memory.read m y = 0 := by
    intro m b hlt y hy
    induction m with
    | nil => rfl
    | cons d m ih =>
      have hd := hlt d (by simp)
      have : y ≠ d.1 := by omega
      simp only [Memory.read, if_neg this]
      exact ih fun c hc => hlt c (by simp [hc])
  induction m generalizing m' with
  | nil =>
    cases m' with
    | nil => rfl
    | cons d m' =>
      have := h d.1
      simp only [Memory.wf, Bool.and_eq_true, decide_eq_true_eq] at hm'
      simp only [Memory.read, if_true] at this
      exact absurd this.symm hm'.1.1
  | cons c m ih =>
    simp only [Memory.wf, Bool.and_eq_true, decide_eq_true_eq, List.all_eq_true] at hm
    cases m' with
    | nil =>
      have := h c.1
      simp only [Memory.read, if_true] at this
      exact absurd this hm.1.1
    | cons d m' =>
      simp only [Memory.wf, Bool.and_eq_true, decide_eq_true_eq, List.all_eq_true] at hm'
      have key : c.1 = d.1 := by
        rcases Nat.lt_trichotomy c.1 d.1 with hl | he | hl
        · have h1 := h c.1
          have : c.1 ≠ d.1 := by omega
          simp only [Memory.read, if_true, if_neg this] at h1
          rw [gone m' d.1 hm'.1.2 c.1 (by omega)] at h1
          exact absurd h1 hm.1.1
        · exact he
        · have h1 := h d.1
          have : d.1 ≠ c.1 := by omega
          simp only [Memory.read, if_true, if_neg this] at h1
          rw [gone m c.1 hm.1.2 d.1 (by omega)] at h1
          exact absurd h1.symm hm'.1.1
      have hv : c.2 = d.2 := by
        have h1 := h c.1
        simpa only [Memory.read, if_true, key] using h1
      have htl : m = m' := by
        refine ih m' hm.2 hm'.2 fun x => ?_
        by_cases hx : x = c.1
        · rw [gone m c.1 hm.1.2 x (by omega), gone m' d.1 hm'.1.2 x (by omega)]
        · have h1 := h x
          have hx' : x ≠ d.1 := by omega
          simpa only [Memory.read, if_neg hx, if_neg hx'] using h1
      rw [htl, Prod.ext key hv]

end Sys2Proof.Machine
end

