-- ==== Sys2Proof/Laws/State.lean ====
section
/-! SUPPORT. What each shared update of the state leaves in each field: one lemma per field per update, so that no proof
unfolds a record update. -/

namespace Sys2Proof.Machine

section complete

variable (c : ErrorCode) (s : State)

@[simp] theorem complete_k : (complete c s).k = s.k := rfl
@[simp] theorem complete_det : (complete c s).det = s.det := rfl
@[simp] theorem complete_detv : (complete c s).detv = s.detv := rfl
@[simp] theorem complete_detm : (complete c s).detm = s.detm := rfl
@[simp] theorem complete_dinv : (complete c s).dinv = s.dinv := rfl
@[simp] theorem complete_ki : (complete c s).ki = s.ki := rfl
@[simp] theorem complete_kiv : (complete c s).kiv = s.kiv := rfl
@[simp] theorem complete_pbuf : (complete c s).pbuf = s.pbuf := rfl
@[simp] theorem complete_plen : (complete c s).plen = s.plen := rfl
@[simp] theorem complete_ibuf : (complete c s).ibuf = s.ibuf := rfl
@[simp] theorem complete_ilen : (complete c s).ilen = s.ilen := rfl
@[simp] theorem complete_obuf : (complete c s).obuf = s.obuf := rfl
@[simp] theorem complete_olen : (complete c s).olen = s.olen := rfl
@[simp] theorem complete_salt : (complete c s).salt = s.salt := rfl
@[simp] theorem complete_iv : (complete c s).iv = s.iv := rfl
@[simp] theorem complete_key : (complete c s).key = s.key := rfl
@[simp] theorem complete_keyv : (complete c s).keyv = s.keyv := rfl
@[simp] theorem complete_done : (complete c s).done = true := rfl
@[simp] theorem complete_err : (complete c s).err = isError c := rfl
@[simp] theorem complete_ecode : (complete c s).ecode = c := rfl
@[simp] theorem complete_estk : (complete c s).estk = s.estk ||| stickyBit c := rfl
@[simp] theorem complete_cfg : (complete c s).cfg = s.cfg := rfl
@[simp] theorem complete_draws : (complete c s).draws = s.draws := rfl
@[simp] theorem complete_inbox : (complete c s).inbox = s.inbox := rfl
@[simp] theorem complete_replies : (complete c s).replies = s.replies := rfl

end complete

section raiseError

variable (c : ErrorCode) (s : State)

@[simp] theorem raiseError_k : (raiseError c s).k = s.k := rfl
@[simp] theorem raiseError_det : (raiseError c s).det = s.det := rfl
@[simp] theorem raiseError_detv : (raiseError c s).detv = s.detv := rfl
@[simp] theorem raiseError_detm : (raiseError c s).detm = s.detm := rfl
@[simp] theorem raiseError_dinv : (raiseError c s).dinv = s.dinv := rfl
@[simp] theorem raiseError_ki : (raiseError c s).ki = s.ki := rfl
@[simp] theorem raiseError_kiv : (raiseError c s).kiv = s.kiv := rfl
@[simp] theorem raiseError_pbuf : (raiseError c s).pbuf = s.pbuf := rfl
@[simp] theorem raiseError_plen : (raiseError c s).plen = s.plen := rfl
@[simp] theorem raiseError_ibuf : (raiseError c s).ibuf = s.ibuf := rfl
@[simp] theorem raiseError_ilen : (raiseError c s).ilen = s.ilen := rfl
@[simp] theorem raiseError_obuf : (raiseError c s).obuf = s.obuf := rfl
@[simp] theorem raiseError_olen : (raiseError c s).olen = s.olen := rfl
@[simp] theorem raiseError_salt : (raiseError c s).salt = s.salt := rfl
@[simp] theorem raiseError_iv : (raiseError c s).iv = s.iv := rfl
@[simp] theorem raiseError_key : (raiseError c s).key = s.key := rfl
@[simp] theorem raiseError_keyv : (raiseError c s).keyv = s.keyv := rfl
@[simp] theorem raiseError_done : (raiseError c s).done = true := rfl
@[simp] theorem raiseError_err : (raiseError c s).err = isError c := rfl
@[simp] theorem raiseError_ecode : (raiseError c s).ecode = c := rfl
@[simp] theorem raiseError_estk : (raiseError c s).estk = s.estk ||| stickyBit c := rfl
@[simp] theorem raiseError_cfg : (raiseError c s).cfg = s.cfg := rfl
@[simp] theorem raiseError_draws : (raiseError c s).draws = s.draws := rfl
@[simp] theorem raiseError_inbox : (raiseError c s).inbox = s.inbox := rfl
@[simp] theorem raiseError_replies : (raiseError c s).replies = s.replies := rfl

end raiseError

section clearOut

variable (s : State)

@[simp] theorem clearOut_k : (clearOut s).k = s.k := rfl
@[simp] theorem clearOut_det : (clearOut s).det = s.det := rfl
@[simp] theorem clearOut_detv : (clearOut s).detv = s.detv := rfl
@[simp] theorem clearOut_detm : (clearOut s).detm = s.detm := rfl
@[simp] theorem clearOut_dinv : (clearOut s).dinv = s.dinv := rfl
@[simp] theorem clearOut_ki : (clearOut s).ki = s.ki := rfl
@[simp] theorem clearOut_kiv : (clearOut s).kiv = s.kiv := rfl
@[simp] theorem clearOut_pbuf : (clearOut s).pbuf = s.pbuf := rfl
@[simp] theorem clearOut_plen : (clearOut s).plen = s.plen := rfl
@[simp] theorem clearOut_ibuf : (clearOut s).ibuf = s.ibuf := rfl
@[simp] theorem clearOut_ilen : (clearOut s).ilen = s.ilen := rfl
@[simp] theorem clearOut_obuf : (clearOut s).obuf = [] := rfl
@[simp] theorem clearOut_olen : (clearOut s).olen = 0 := rfl
@[simp] theorem clearOut_salt : (clearOut s).salt = s.salt := rfl
@[simp] theorem clearOut_iv : (clearOut s).iv = s.iv := rfl
@[simp] theorem clearOut_key : (clearOut s).key = s.key := rfl
@[simp] theorem clearOut_keyv : (clearOut s).keyv = s.keyv := rfl
@[simp] theorem clearOut_done : (clearOut s).done = s.done := rfl
@[simp] theorem clearOut_err : (clearOut s).err = s.err := rfl
@[simp] theorem clearOut_ecode : (clearOut s).ecode = s.ecode := rfl
@[simp] theorem clearOut_estk : (clearOut s).estk = s.estk := rfl
@[simp] theorem clearOut_cfg : (clearOut s).cfg = s.cfg := rfl
@[simp] theorem clearOut_draws : (clearOut s).draws = s.draws := rfl
@[simp] theorem clearOut_inbox : (clearOut s).inbox = s.inbox := rfl
@[simp] theorem clearOut_replies : (clearOut s).replies = s.replies := rfl

end clearOut

section writeOut

variable (r : List Byte) (s : State)

@[simp] theorem writeOut_k : (writeOut r s).k = s.k := rfl
@[simp] theorem writeOut_det : (writeOut r s).det = s.det := rfl
@[simp] theorem writeOut_detv : (writeOut r s).detv = s.detv := rfl
@[simp] theorem writeOut_detm : (writeOut r s).detm = s.detm := rfl
@[simp] theorem writeOut_dinv : (writeOut r s).dinv = s.dinv := rfl
@[simp] theorem writeOut_ki : (writeOut r s).ki = s.ki := rfl
@[simp] theorem writeOut_kiv : (writeOut r s).kiv = s.kiv := rfl
@[simp] theorem writeOut_pbuf : (writeOut r s).pbuf = s.pbuf := rfl
@[simp] theorem writeOut_plen : (writeOut r s).plen = s.plen := rfl
@[simp] theorem writeOut_ibuf : (writeOut r s).ibuf = s.ibuf := rfl
@[simp] theorem writeOut_ilen : (writeOut r s).ilen = s.ilen := rfl
@[simp] theorem writeOut_obuf : (writeOut r s).obuf = Memory.writeBytes s.obuf 0 r := rfl
@[simp] theorem writeOut_olen : (writeOut r s).olen = r.length := rfl
@[simp] theorem writeOut_salt : (writeOut r s).salt = s.salt := rfl
@[simp] theorem writeOut_iv : (writeOut r s).iv = s.iv := rfl
@[simp] theorem writeOut_key : (writeOut r s).key = s.key := rfl
@[simp] theorem writeOut_keyv : (writeOut r s).keyv = s.keyv := rfl
@[simp] theorem writeOut_done : (writeOut r s).done = s.done := rfl
@[simp] theorem writeOut_err : (writeOut r s).err = s.err := rfl
@[simp] theorem writeOut_ecode : (writeOut r s).ecode = s.ecode := rfl
@[simp] theorem writeOut_estk : (writeOut r s).estk = s.estk := rfl
@[simp] theorem writeOut_cfg : (writeOut r s).cfg = s.cfg := rfl
@[simp] theorem writeOut_draws : (writeOut r s).draws = s.draws := rfl
@[simp] theorem writeOut_inbox : (writeOut r s).inbox = s.inbox := rfl
@[simp] theorem writeOut_replies : (writeOut r s).replies = s.replies := rfl

end writeOut

section clearDerived

variable (s : State)

@[simp] theorem clearDerived_k : (clearDerived s).k = s.k := rfl
@[simp] theorem clearDerived_det : (clearDerived s).det = 0 := rfl
@[simp] theorem clearDerived_detv : (clearDerived s).detv = false := rfl
@[simp] theorem clearDerived_detm : (clearDerived s).detm = 0 := rfl
@[simp] theorem clearDerived_dinv : (clearDerived s).dinv = 0 := rfl
@[simp] theorem clearDerived_ki : (clearDerived s).ki = Mat2.const 0 := rfl
@[simp] theorem clearDerived_kiv : (clearDerived s).kiv = false := rfl
@[simp] theorem clearDerived_pbuf : (clearDerived s).pbuf = s.pbuf := rfl
@[simp] theorem clearDerived_plen : (clearDerived s).plen = s.plen := rfl
@[simp] theorem clearDerived_ibuf : (clearDerived s).ibuf = s.ibuf := rfl
@[simp] theorem clearDerived_ilen : (clearDerived s).ilen = s.ilen := rfl
@[simp] theorem clearDerived_obuf : (clearDerived s).obuf = s.obuf := rfl
@[simp] theorem clearDerived_olen : (clearDerived s).olen = s.olen := rfl
@[simp] theorem clearDerived_salt : (clearDerived s).salt = s.salt := rfl
@[simp] theorem clearDerived_iv : (clearDerived s).iv = s.iv := rfl
@[simp] theorem clearDerived_key : (clearDerived s).key = s.key := rfl
@[simp] theorem clearDerived_keyv : (clearDerived s).keyv = s.keyv := rfl
@[simp] theorem clearDerived_done : (clearDerived s).done = s.done := rfl
@[simp] theorem clearDerived_err : (clearDerived s).err = s.err := rfl
@[simp] theorem clearDerived_ecode : (clearDerived s).ecode = s.ecode := rfl
@[simp] theorem clearDerived_estk : (clearDerived s).estk = s.estk := rfl
@[simp] theorem clearDerived_cfg : (clearDerived s).cfg = s.cfg := rfl
@[simp] theorem clearDerived_draws : (clearDerived s).draws = s.draws := rfl
@[simp] theorem clearDerived_inbox : (clearDerived s).inbox = s.inbox := rfl
@[simp] theorem clearDerived_replies : (clearDerived s).replies = s.replies := rfl

end clearDerived

section writeDet

variable (s : State)

@[simp] theorem writeDet_k : (writeDet s).k = s.k := rfl
@[simp] theorem writeDet_det : (writeDet s).det = BitVec.ofInt 64 (det2 (keyMatrix s)) := rfl
@[simp] theorem writeDet_detv : (writeDet s).detv = true := rfl
@[simp] theorem writeDet_detm : (writeDet s).detm = mod26 (det2 (keyMatrix s)) := rfl
@[simp] theorem writeDet_dinv : (writeDet s).dinv = s.dinv := rfl
@[simp] theorem writeDet_ki : (writeDet s).ki = s.ki := rfl
@[simp] theorem writeDet_kiv : (writeDet s).kiv = s.kiv := rfl
@[simp] theorem writeDet_pbuf : (writeDet s).pbuf = s.pbuf := rfl
@[simp] theorem writeDet_plen : (writeDet s).plen = s.plen := rfl
@[simp] theorem writeDet_ibuf : (writeDet s).ibuf = s.ibuf := rfl
@[simp] theorem writeDet_ilen : (writeDet s).ilen = s.ilen := rfl
@[simp] theorem writeDet_obuf : (writeDet s).obuf = s.obuf := rfl
@[simp] theorem writeDet_olen : (writeDet s).olen = s.olen := rfl
@[simp] theorem writeDet_salt : (writeDet s).salt = s.salt := rfl
@[simp] theorem writeDet_iv : (writeDet s).iv = s.iv := rfl
@[simp] theorem writeDet_key : (writeDet s).key = s.key := rfl
@[simp] theorem writeDet_keyv : (writeDet s).keyv = s.keyv := rfl
@[simp] theorem writeDet_done : (writeDet s).done = s.done := rfl
@[simp] theorem writeDet_err : (writeDet s).err = s.err := rfl
@[simp] theorem writeDet_ecode : (writeDet s).ecode = s.ecode := rfl
@[simp] theorem writeDet_estk : (writeDet s).estk = s.estk := rfl
@[simp] theorem writeDet_cfg : (writeDet s).cfg = s.cfg := rfl
@[simp] theorem writeDet_draws : (writeDet s).draws = s.draws := rfl
@[simp] theorem writeDet_inbox : (writeDet s).inbox = s.inbox := rfl
@[simp] theorem writeDet_replies : (writeDet s).replies = s.replies := rfl

end writeDet

section loadSaltIv

variable (a b : Block) (s : State)

@[simp] theorem loadSaltIv_k : (loadSaltIv a b s).k = s.k := rfl
@[simp] theorem loadSaltIv_det : (loadSaltIv a b s).det = s.det := rfl
@[simp] theorem loadSaltIv_detv : (loadSaltIv a b s).detv = s.detv := rfl
@[simp] theorem loadSaltIv_detm : (loadSaltIv a b s).detm = s.detm := rfl
@[simp] theorem loadSaltIv_dinv : (loadSaltIv a b s).dinv = s.dinv := rfl
@[simp] theorem loadSaltIv_ki : (loadSaltIv a b s).ki = s.ki := rfl
@[simp] theorem loadSaltIv_kiv : (loadSaltIv a b s).kiv = s.kiv := rfl
@[simp] theorem loadSaltIv_pbuf : (loadSaltIv a b s).pbuf = s.pbuf := rfl
@[simp] theorem loadSaltIv_plen : (loadSaltIv a b s).plen = s.plen := rfl
@[simp] theorem loadSaltIv_ibuf : (loadSaltIv a b s).ibuf = s.ibuf := rfl
@[simp] theorem loadSaltIv_ilen : (loadSaltIv a b s).ilen = s.ilen := rfl
@[simp] theorem loadSaltIv_obuf : (loadSaltIv a b s).obuf = s.obuf := rfl
@[simp] theorem loadSaltIv_olen : (loadSaltIv a b s).olen = s.olen := rfl
@[simp] theorem loadSaltIv_salt : (loadSaltIv a b s).salt = a := rfl
@[simp] theorem loadSaltIv_iv : (loadSaltIv a b s).iv = b := rfl
@[simp] theorem loadSaltIv_key : (loadSaltIv a b s).key = s.key := rfl
@[simp] theorem loadSaltIv_keyv : (loadSaltIv a b s).keyv = s.keyv := rfl
@[simp] theorem loadSaltIv_done : (loadSaltIv a b s).done = s.done := rfl
@[simp] theorem loadSaltIv_err : (loadSaltIv a b s).err = s.err := rfl
@[simp] theorem loadSaltIv_ecode : (loadSaltIv a b s).ecode = s.ecode := rfl
@[simp] theorem loadSaltIv_estk : (loadSaltIv a b s).estk = s.estk := rfl
@[simp] theorem loadSaltIv_cfg : (loadSaltIv a b s).cfg = s.cfg := rfl
@[simp] theorem loadSaltIv_draws : (loadSaltIv a b s).draws = s.draws := rfl
@[simp] theorem loadSaltIv_inbox : (loadSaltIv a b s).inbox = s.inbox := rfl
@[simp] theorem loadSaltIv_replies : (loadSaltIv a b s).replies = s.replies := rfl

end loadSaltIv

section loadKey

variable (x : Key) (s : State)

@[simp] theorem loadKey_k : (loadKey x s).k = s.k := rfl
@[simp] theorem loadKey_det : (loadKey x s).det = s.det := rfl
@[simp] theorem loadKey_detv : (loadKey x s).detv = s.detv := rfl
@[simp] theorem loadKey_detm : (loadKey x s).detm = s.detm := rfl
@[simp] theorem loadKey_dinv : (loadKey x s).dinv = s.dinv := rfl
@[simp] theorem loadKey_ki : (loadKey x s).ki = s.ki := rfl
@[simp] theorem loadKey_kiv : (loadKey x s).kiv = s.kiv := rfl
@[simp] theorem loadKey_pbuf : (loadKey x s).pbuf = s.pbuf := rfl
@[simp] theorem loadKey_plen : (loadKey x s).plen = s.plen := rfl
@[simp] theorem loadKey_ibuf : (loadKey x s).ibuf = s.ibuf := rfl
@[simp] theorem loadKey_ilen : (loadKey x s).ilen = s.ilen := rfl
@[simp] theorem loadKey_obuf : (loadKey x s).obuf = s.obuf := rfl
@[simp] theorem loadKey_olen : (loadKey x s).olen = s.olen := rfl
@[simp] theorem loadKey_salt : (loadKey x s).salt = s.salt := rfl
@[simp] theorem loadKey_iv : (loadKey x s).iv = s.iv := rfl
@[simp] theorem loadKey_key : (loadKey x s).key = x := rfl
@[simp] theorem loadKey_keyv : (loadKey x s).keyv = true := rfl
@[simp] theorem loadKey_done : (loadKey x s).done = s.done := rfl
@[simp] theorem loadKey_err : (loadKey x s).err = s.err := rfl
@[simp] theorem loadKey_ecode : (loadKey x s).ecode = s.ecode := rfl
@[simp] theorem loadKey_estk : (loadKey x s).estk = s.estk := rfl
@[simp] theorem loadKey_cfg : (loadKey x s).cfg = s.cfg := rfl
@[simp] theorem loadKey_draws : (loadKey x s).draws = s.draws := rfl
@[simp] theorem loadKey_inbox : (loadKey x s).inbox = s.inbox := rfl
@[simp] theorem loadKey_replies : (loadKey x s).replies = s.replies := rfl

end loadKey

section dropKey

variable (s : State)

@[simp] theorem dropKey_k : (dropKey s).k = s.k := rfl
@[simp] theorem dropKey_det : (dropKey s).det = s.det := rfl
@[simp] theorem dropKey_detv : (dropKey s).detv = s.detv := rfl
@[simp] theorem dropKey_detm : (dropKey s).detm = s.detm := rfl
@[simp] theorem dropKey_dinv : (dropKey s).dinv = s.dinv := rfl
@[simp] theorem dropKey_ki : (dropKey s).ki = s.ki := rfl
@[simp] theorem dropKey_kiv : (dropKey s).kiv = s.kiv := rfl
@[simp] theorem dropKey_pbuf : (dropKey s).pbuf = s.pbuf := rfl
@[simp] theorem dropKey_plen : (dropKey s).plen = s.plen := rfl
@[simp] theorem dropKey_ibuf : (dropKey s).ibuf = s.ibuf := rfl
@[simp] theorem dropKey_ilen : (dropKey s).ilen = s.ilen := rfl
@[simp] theorem dropKey_obuf : (dropKey s).obuf = s.obuf := rfl
@[simp] theorem dropKey_olen : (dropKey s).olen = s.olen := rfl
@[simp] theorem dropKey_salt : (dropKey s).salt = s.salt := rfl
@[simp] theorem dropKey_iv : (dropKey s).iv = s.iv := rfl
@[simp] theorem dropKey_key : (dropKey s).key = zeroKey := rfl
@[simp] theorem dropKey_keyv : (dropKey s).keyv = false := rfl
@[simp] theorem dropKey_done : (dropKey s).done = s.done := rfl
@[simp] theorem dropKey_err : (dropKey s).err = s.err := rfl
@[simp] theorem dropKey_ecode : (dropKey s).ecode = s.ecode := rfl
@[simp] theorem dropKey_estk : (dropKey s).estk = s.estk := rfl
@[simp] theorem dropKey_cfg : (dropKey s).cfg = s.cfg := rfl
@[simp] theorem dropKey_draws : (dropKey s).draws = s.draws := rfl
@[simp] theorem dropKey_inbox : (dropKey s).inbox = s.inbox := rfl
@[simp] theorem dropKey_replies : (dropKey s).replies = s.replies := rfl

end dropKey

section clearBuffers

variable (s : State)

@[simp] theorem clearBuffers_k : (clearBuffers s).k = s.k := rfl
@[simp] theorem clearBuffers_det : (clearBuffers s).det = s.det := rfl
@[simp] theorem clearBuffers_detv : (clearBuffers s).detv = s.detv := rfl
@[simp] theorem clearBuffers_detm : (clearBuffers s).detm = s.detm := rfl
@[simp] theorem clearBuffers_dinv : (clearBuffers s).dinv = s.dinv := rfl
@[simp] theorem clearBuffers_ki : (clearBuffers s).ki = s.ki := rfl
@[simp] theorem clearBuffers_kiv : (clearBuffers s).kiv = s.kiv := rfl
@[simp] theorem clearBuffers_pbuf : (clearBuffers s).pbuf = [] := rfl
@[simp] theorem clearBuffers_plen : (clearBuffers s).plen = 0 := rfl
@[simp] theorem clearBuffers_ibuf : (clearBuffers s).ibuf = [] := rfl
@[simp] theorem clearBuffers_ilen : (clearBuffers s).ilen = 0 := rfl
@[simp] theorem clearBuffers_obuf : (clearBuffers s).obuf = [] := rfl
@[simp] theorem clearBuffers_olen : (clearBuffers s).olen = 0 := rfl
@[simp] theorem clearBuffers_salt : (clearBuffers s).salt = s.salt := rfl
@[simp] theorem clearBuffers_iv : (clearBuffers s).iv = s.iv := rfl
@[simp] theorem clearBuffers_key : (clearBuffers s).key = s.key := rfl
@[simp] theorem clearBuffers_keyv : (clearBuffers s).keyv = s.keyv := rfl
@[simp] theorem clearBuffers_done : (clearBuffers s).done = s.done := rfl
@[simp] theorem clearBuffers_err : (clearBuffers s).err = s.err := rfl
@[simp] theorem clearBuffers_ecode : (clearBuffers s).ecode = s.ecode := rfl
@[simp] theorem clearBuffers_estk : (clearBuffers s).estk = s.estk := rfl
@[simp] theorem clearBuffers_cfg : (clearBuffers s).cfg = s.cfg := rfl
@[simp] theorem clearBuffers_draws : (clearBuffers s).draws = s.draws := rfl
@[simp] theorem clearBuffers_inbox : (clearBuffers s).inbox = s.inbox := rfl
@[simp] theorem clearBuffers_replies : (clearBuffers s).replies = s.replies := rfl

end clearBuffers

section countDraw

variable (s : State)

@[simp] theorem countDraw_k : (countDraw s).k = s.k := rfl
@[simp] theorem countDraw_det : (countDraw s).det = s.det := rfl
@[simp] theorem countDraw_detv : (countDraw s).detv = s.detv := rfl
@[simp] theorem countDraw_detm : (countDraw s).detm = s.detm := rfl
@[simp] theorem countDraw_dinv : (countDraw s).dinv = s.dinv := rfl
@[simp] theorem countDraw_ki : (countDraw s).ki = s.ki := rfl
@[simp] theorem countDraw_kiv : (countDraw s).kiv = s.kiv := rfl
@[simp] theorem countDraw_pbuf : (countDraw s).pbuf = s.pbuf := rfl
@[simp] theorem countDraw_plen : (countDraw s).plen = s.plen := rfl
@[simp] theorem countDraw_ibuf : (countDraw s).ibuf = s.ibuf := rfl
@[simp] theorem countDraw_ilen : (countDraw s).ilen = s.ilen := rfl
@[simp] theorem countDraw_obuf : (countDraw s).obuf = s.obuf := rfl
@[simp] theorem countDraw_olen : (countDraw s).olen = s.olen := rfl
@[simp] theorem countDraw_salt : (countDraw s).salt = s.salt := rfl
@[simp] theorem countDraw_iv : (countDraw s).iv = s.iv := rfl
@[simp] theorem countDraw_key : (countDraw s).key = s.key := rfl
@[simp] theorem countDraw_keyv : (countDraw s).keyv = s.keyv := rfl
@[simp] theorem countDraw_done : (countDraw s).done = s.done := rfl
@[simp] theorem countDraw_err : (countDraw s).err = s.err := rfl
@[simp] theorem countDraw_ecode : (countDraw s).ecode = s.ecode := rfl
@[simp] theorem countDraw_estk : (countDraw s).estk = s.estk := rfl
@[simp] theorem countDraw_cfg : (countDraw s).cfg = s.cfg := rfl
@[simp] theorem countDraw_draws : (countDraw s).draws = s.draws + 1 := rfl
@[simp] theorem countDraw_inbox : (countDraw s).inbox = s.inbox := rfl
@[simp] theorem countDraw_replies : (countDraw s).replies = s.replies := rfl

end countDraw

section answer

variable (r : Reply) (s : State)

@[simp] theorem answer_k : (answer r s).k = s.k := rfl
@[simp] theorem answer_det : (answer r s).det = s.det := rfl
@[simp] theorem answer_detv : (answer r s).detv = s.detv := rfl
@[simp] theorem answer_detm : (answer r s).detm = s.detm := rfl
@[simp] theorem answer_dinv : (answer r s).dinv = s.dinv := rfl
@[simp] theorem answer_ki : (answer r s).ki = s.ki := rfl
@[simp] theorem answer_kiv : (answer r s).kiv = s.kiv := rfl
@[simp] theorem answer_pbuf : (answer r s).pbuf = s.pbuf := rfl
@[simp] theorem answer_plen : (answer r s).plen = s.plen := rfl
@[simp] theorem answer_ibuf : (answer r s).ibuf = s.ibuf := rfl
@[simp] theorem answer_ilen : (answer r s).ilen = s.ilen := rfl
@[simp] theorem answer_obuf : (answer r s).obuf = s.obuf := rfl
@[simp] theorem answer_olen : (answer r s).olen = s.olen := rfl
@[simp] theorem answer_salt : (answer r s).salt = s.salt := rfl
@[simp] theorem answer_iv : (answer r s).iv = s.iv := rfl
@[simp] theorem answer_key : (answer r s).key = s.key := rfl
@[simp] theorem answer_keyv : (answer r s).keyv = s.keyv := rfl
@[simp] theorem answer_done : (answer r s).done = s.done := rfl
@[simp] theorem answer_err : (answer r s).err = s.err := rfl
@[simp] theorem answer_ecode : (answer r s).ecode = s.ecode := rfl
@[simp] theorem answer_estk : (answer r s).estk = s.estk := rfl
@[simp] theorem answer_cfg : (answer r s).cfg = s.cfg := rfl
@[simp] theorem answer_draws : (answer r s).draws = s.draws := rfl
@[simp] theorem answer_inbox : (answer r s).inbox = s.inbox := rfl
@[simp] theorem answer_replies : (answer r s).replies = r :: s.replies := rfl

end answer

section resetBlock

variable (s : State)

@[simp] theorem resetBlock_k : (resetBlock s).k = State.reset.k := rfl
@[simp] theorem resetBlock_det : (resetBlock s).det = State.reset.det := rfl
@[simp] theorem resetBlock_detv : (resetBlock s).detv = State.reset.detv := rfl
@[simp] theorem resetBlock_detm : (resetBlock s).detm = State.reset.detm := rfl
@[simp] theorem resetBlock_dinv : (resetBlock s).dinv = State.reset.dinv := rfl
@[simp] theorem resetBlock_ki : (resetBlock s).ki = State.reset.ki := rfl
@[simp] theorem resetBlock_kiv : (resetBlock s).kiv = State.reset.kiv := rfl
@[simp] theorem resetBlock_pbuf : (resetBlock s).pbuf = State.reset.pbuf := rfl
@[simp] theorem resetBlock_plen : (resetBlock s).plen = State.reset.plen := rfl
@[simp] theorem resetBlock_ibuf : (resetBlock s).ibuf = State.reset.ibuf := rfl
@[simp] theorem resetBlock_ilen : (resetBlock s).ilen = State.reset.ilen := rfl
@[simp] theorem resetBlock_obuf : (resetBlock s).obuf = State.reset.obuf := rfl
@[simp] theorem resetBlock_olen : (resetBlock s).olen = State.reset.olen := rfl
@[simp] theorem resetBlock_salt : (resetBlock s).salt = State.reset.salt := rfl
@[simp] theorem resetBlock_iv : (resetBlock s).iv = State.reset.iv := rfl
@[simp] theorem resetBlock_key : (resetBlock s).key = State.reset.key := rfl
@[simp] theorem resetBlock_keyv : (resetBlock s).keyv = State.reset.keyv := rfl
@[simp] theorem resetBlock_done : (resetBlock s).done = State.reset.done := rfl
@[simp] theorem resetBlock_err : (resetBlock s).err = State.reset.err := rfl
@[simp] theorem resetBlock_ecode : (resetBlock s).ecode = State.reset.ecode := rfl
@[simp] theorem resetBlock_estk : (resetBlock s).estk = State.reset.estk := rfl
@[simp] theorem resetBlock_cfg : (resetBlock s).cfg = s.cfg := rfl
@[simp] theorem resetBlock_draws : (resetBlock s).draws = s.draws := rfl
@[simp] theorem resetBlock_inbox : (resetBlock s).inbox = s.inbox := rfl
@[simp] theorem resetBlock_replies : (resetBlock s).replies = s.replies := rfl

end resetBlock

section writeInverse

variable (s : State)

@[simp] theorem writeInverse_k : (writeInverse s).k = s.k := by
  unfold writeInverse; split <;> rfl
@[simp] theorem writeInverse_det : (writeInverse s).det = BitVec.ofInt 64 (det2 (keyMatrix s)) := by
  unfold writeInverse; split <;> rfl
@[simp] theorem writeInverse_detv : (writeInverse s).detv = true := by
  unfold writeInverse; split <;> rfl
@[simp] theorem writeInverse_detm : (writeInverse s).detm = mod26 (det2 (keyMatrix s)) := by
  unfold writeInverse; split <;> rfl
@[simp] theorem writeInverse_pbuf : (writeInverse s).pbuf = s.pbuf := by
  unfold writeInverse; split <;> rfl
@[simp] theorem writeInverse_plen : (writeInverse s).plen = s.plen := by
  unfold writeInverse; split <;> rfl
@[simp] theorem writeInverse_ibuf : (writeInverse s).ibuf = s.ibuf := by
  unfold writeInverse; split <;> rfl
@[simp] theorem writeInverse_ilen : (writeInverse s).ilen = s.ilen := by
  unfold writeInverse; split <;> rfl
@[simp] theorem writeInverse_obuf : (writeInverse s).obuf = s.obuf := by
  unfold writeInverse; split <;> rfl
@[simp] theorem writeInverse_olen : (writeInverse s).olen = s.olen := by
  unfold writeInverse; split <;> rfl
@[simp] theorem writeInverse_salt : (writeInverse s).salt = s.salt := by
  unfold writeInverse; split <;> rfl
@[simp] theorem writeInverse_iv : (writeInverse s).iv = s.iv := by
  unfold writeInverse; split <;> rfl
@[simp] theorem writeInverse_key : (writeInverse s).key = s.key := by
  unfold writeInverse; split <;> rfl
@[simp] theorem writeInverse_keyv : (writeInverse s).keyv = s.keyv := by
  unfold writeInverse; split <;> rfl
@[simp] theorem writeInverse_done : (writeInverse s).done = s.done := by
  unfold writeInverse; split <;> rfl
@[simp] theorem writeInverse_err : (writeInverse s).err = s.err := by
  unfold writeInverse; split <;> rfl
@[simp] theorem writeInverse_ecode : (writeInverse s).ecode = s.ecode := by
  unfold writeInverse; split <;> rfl
@[simp] theorem writeInverse_estk : (writeInverse s).estk = s.estk := by
  unfold writeInverse; split <;> rfl
@[simp] theorem writeInverse_cfg : (writeInverse s).cfg = s.cfg := by
  unfold writeInverse; split <;> rfl
@[simp] theorem writeInverse_draws : (writeInverse s).draws = s.draws := by
  unfold writeInverse; split <;> rfl
@[simp] theorem writeInverse_inbox : (writeInverse s).inbox = s.inbox := by
  unfold writeInverse; split <;> rfl
@[simp] theorem writeInverse_replies : (writeInverse s).replies = s.replies := by
  unfold writeInverse; split <;> rfl

end writeInverse

end Sys2Proof.Machine
end

