-- ==== Sys2Proof/Laws/Ops.lean ====
section
/-! SUPPORT. What the shared operations answer, said once: the output after `ClearOut`, the inverse registers, the transactions.
Later proofs cite these instead of unfolding the operations. -/

namespace Sys2Proof.Machine

@[simp] theorem isError_success : isError .success = false := rfl

@[simp] theorem stickyBit_success : stickyBit .success = 0 := rfl

/-- `ERR` after a completion says whether the code is one of an error. -/
theorem isError_eq (c : ErrorCode) : isError c = decide (c ≠ .success) := by cases c <;> rfl

/-- Writing an output over a cleared one: OLEN its length, OBUF its bytes and 0 from there on. -/
theorem writeOut_clear (r : List Byte) (s : State) (h : s.obuf = []) :
    (writeOut r s).olen = r.length ∧ output (writeOut r s) = r ∧
      ∀ o, Memory.read (writeOut r s).obuf o = r.getD o 0 := by
  have hw : Memory.wf s.obuf = true := by rw [h]; rfl
  refine ⟨rfl, ?_, fun o => ?_⟩
  · simpa [output] using Memory.readBytes_writeBytes s.obuf 0 r hw
  · simp only [writeOut_obuf, Memory.read_writeBytes _ _ _ hw, Nat.zero_le, true_and, Nat.zero_add, Nat.sub_zero]
    split
    · rfl
    · rename_i hn
      simp [h, List.getElem?_eq_none (Nat.le_of_not_lt hn)]

/-- The output registers decide the output. -/
theorem output_congr {s t : State} (h1 : s.obuf = t.obuf) (h2 : s.olen = t.olen) : output s = output t := by
  simp [output, h1, h2]

@[simp] theorem length_message (s : State) : (message s).length = s.ilen := by simp [message]

@[simp] theorem length_password (s : State) : (password s).length = s.plen := by simp [password]

/-- With a valid key the inverse registers hold what `minv26` answers. -/
theorem writeInverse_valid (s : State) (h : validKey (keyMatrix s) = true) :
    (writeInverse s).kiv = true ∧
      minv26 (keyMatrix s) = some ((writeInverse s).detm, (writeInverse s).dinv, (writeInverse s).ki) := by
  obtain ⟨di, -, hm⟩ := minv26_eq_of_valid _ h
  simp only [writeInverse, hm]
  exact ⟨trivial, rfl⟩

/-- With a valid key the whole effect on the state: DET, DETM and DETV, DINV, KI and KIV. -/
theorem writeInverse_valid_eq (s : State) (h : validKey (keyMatrix s) = true) :
    writeInverse s =
      { writeDet s with dinv := (writeInverse s).dinv, ki := (writeInverse s).ki, kiv := true } := by
  obtain ⟨di, -, hm⟩ := minv26_eq_of_valid _ h
  simp only [writeInverse, hm]

/-- With an invalid key the inverse registers hold zero. -/
theorem writeInverse_invalid (s : State) (h : validKey (keyMatrix s) = false) :
    writeInverse s = { writeDet s with dinv := 0, ki := Mat2.const 0, kiv := false } := by
  simp only [writeInverse, minv26_eq_none _ h]

/-- The key matrix depends on the K registers only. -/
theorem keyMatrix_congr {s t : State} (h : s.k = t.k) : keyMatrix s = keyMatrix t := by simp [keyMatrix, h]

/-- Every command answers a next state. -/
theorem exec_next (i : Instr) (s : State) : ∃ t, exec i s = .next t := by
  cases i <;> exact ⟨_, rfl⟩

/-- A word written to CMD is run as its command, or completes with IllegalCommand. -/
theorem runWord_cases (w : Word) (s : State) :
    (∃ i, decode w = .ok i ∧ runWord w s = exec i s) ∨
      ((∃ e, decode w = .error e) ∧ runWord w s = .next (complete .illegalCommand s)) := by
  unfold runWord
  split
  · rename_i i h; exact .inl ⟨i, h, rfl⟩
  · rename_i e h; exact .inr ⟨⟨e, h⟩, rfl⟩

/-- A write to CMD: the word is run and the reply is OK. -/
theorem runTxn_cmd (w : Word) (s t : State) (h : runWord w s = .next t) :
    runTxn (.write32 cmdAddr w) s = .next (answer .ok t) := by
  simp [runTxn, h]

@[simp] theorem answerWrite_some (s t : State) : answerWrite s (some t) = answer .ok t := rfl

@[simp] theorem answerWrite_none (s : State) : answerWrite s none = answer .busErr s := rfl

end Sys2Proof.Machine
end

