-- ==== Sys2Proof/Laws/Bus.lean ====
section
/-! SUPPORT. What the bus operations answer, said once (inversion lemmas): which state a word write, a byte write, a transaction
and a step can lead to. -/

namespace Sys2Proof.Machine

/-- A word write that is not refused writes one K register and clears the derived ones, or one length within its capacity, or
ESTK, or nothing. -/
theorem writeReg_some {r : Reg} {v : Word} {s t : State} (h : writeReg r v s = some t) :
    (∃ k, t = { clearDerived s with k := k }) ∨ (∃ n, n ≤ s.cfg.ibufCap ∧ t = { s with ilen := n }) ∨
      (∃ n, n ≤ s.cfg.pbufCap ∧ t = { s with plen := n }) ∨ (∃ e, t = { s with estk := e }) ∨ t = s := by
  cases r <;> simp only [writeReg, Option.some.injEq] at h
  case k00 | k01 | k10 | k11 => exact .inl ⟨_, h.symm⟩
  case ilen =>
    split at h
    · rename_i hle; exact .inr (.inl ⟨_, hle, (Option.some.inj h).symm⟩)
    · cases h
  case plen =>
    split at h
    · rename_i hle; exact .inr (.inr (.inl ⟨_, hle, (Option.some.inj h).symm⟩))
    · cases h
  case estk => exact .inr (.inr (.inr (.inl ⟨_, h.symm⟩)))
  all_goals exact .inr (.inr (.inr (.inr h.symm)))

theorem busWrite32_some {a : Addr} {v : Word} {s t : State} (h : busWrite32 a v s = some t) :
    (∃ k, t = { clearDerived s with k := k }) ∨ (∃ n, n ≤ s.cfg.ibufCap ∧ t = { s with ilen := n }) ∨
      (∃ n, n ≤ s.cfg.pbufCap ∧ t = { s with plen := n }) ∨ (∃ e, t = { s with estk := e }) ∨ t = s := by
  obtain ⟨r, -, hr⟩ := Option.bind_eq_some_iff.mp h
  exact writeReg_some hr

/-- The byte location of an address lies within its window. -/
theorem byteAt_bound {c : Config} {a : Addr} {l : ByteLoc} (h : byteAt c a = some l) :
    match l with
    | .salt _ | .iv _ => True
    | .pbuf o => o < c.pbufCap
    | .ibuf o => o < c.ibufCap
    | .obuf o => o < c.obufCap := by
  simp only [byteAt] at h
  split at h
  · cases h; trivial
  · split at h
    · cases h; trivial
    · split at h
      · cases h; simp only; omega
      · split at h
        · cases h; simp only; omega
        · split at h
          · cases h; simp only; omega
          · cases h

/-- A byte write that is not refused stores into SALT, IV, PBUF or IBUF, within the buffer's capacity, or changes nothing. -/
theorem busWrite8_some {a : Addr} {v : Byte} {s t : State} (h : busWrite8 a v s = some t) :
    (∃ x, t = { s with salt := x }) ∨ (∃ x, t = { s with iv := x }) ∨
      (∃ o, o < s.cfg.pbufCap ∧ t = { s with pbuf := Memory.write s.pbuf o v }) ∨
        (∃ o, o < s.cfg.ibufCap ∧ t = { s with ibuf := Memory.write s.ibuf o v }) ∨ t = s := by
  obtain ⟨l, hl, ht⟩ := Option.map_eq_some_iff.mp h
  have hb := byteAt_bound hl
  subst ht
  cases l with
  | salt i => exact .inl ⟨_, rfl⟩
  | iv i => exact .inr (.inl ⟨_, rfl⟩)
  | pbuf o => exact .inr (.inr (.inl ⟨o, hb, rfl⟩))
  | ibuf o => exact .inr (.inr (.inr (.inl ⟨o, hb, rfl⟩)))
  | obuf o => exact .inr (.inr (.inr (.inr rfl)))

/-- Every transaction answers a next state, which has one reply more: the command's outcome for a write to CMD; else the
effect of the write, or the same state. -/
theorem runTxn_cases (tx : Txn) (s : State) :
    (∃ w u, tx = .write32 cmdAddr w ∧ runWord w s = .next u ∧ runTxn tx s = .next (answer .ok u)) ∨
      (∃ a v u, a ≠ cmdAddr ∧ tx = .write32 a v ∧ busWrite32 a v s = some u ∧ runTxn tx s = .next (answer .ok u)) ∨
        (∃ a v u, tx = .write8 a v ∧ busWrite8 a v s = some u ∧ runTxn tx s = .next (answer .ok u)) ∨
          (∀ w, tx ≠ .write32 cmdAddr w) ∧ ∃ r, runTxn tx s = .next (answer r s) := by
  cases tx with
  | read32 a => exact .inr (.inr (.inr ⟨by simp, _, rfl⟩))
  | read8 a => exact .inr (.inr (.inr ⟨by simp, _, rfl⟩))
  | write8 a v =>
    cases h : busWrite8 a v s with
    | none => exact .inr (.inr (.inr ⟨by simp, .busErr, by simp [runTxn, answerWrite, h]⟩))
    | some u => exact .inr (.inr (.inl ⟨a, v, u, rfl, h, by simp [runTxn, answerWrite, h]⟩))
  | write32 a v =>
    by_cases ha : a = cmdAddr
    · subst ha
      have : ∃ u, runWord v s = .next u := by
        rcases runWord_cases v s with ⟨i, -, h⟩ | ⟨-, h⟩
        · rw [h]; exact exec_next i s
        · exact ⟨_, h⟩
      obtain ⟨u, hu⟩ := this
      exact .inl ⟨v, u, rfl, hu, runTxn_cmd v s u hu⟩
    · cases h : busWrite32 a v s with
      | none => exact .inr (.inr (.inr ⟨by simp [ha], .busErr, by simp [runTxn, answerWrite, h, ha]⟩))
      | some u => exact .inr (.inl ⟨a, v, u, ha, rfl, h, by simp [runTxn, answerWrite, h, ha]⟩)

/-- What a step can do: nothing, a reset, or the transaction delivered. -/
theorem step_cases (s : State) :
    (s.inbox = [] ∧ step s = .next s) ∨
      (∃ rest, s.inbox = .reset :: rest ∧ step s = .next (resetBlock { s with inbox := rest })) ∨
        ∃ tx rest, s.inbox = .bus tx :: rest ∧ step s = runTxn tx { s with inbox := rest } := by
  cases h : s.inbox with
  | nil => exact .inl ⟨rfl, by simp [step, h]⟩
  | cons e rest =>
    cases e with
    | reset => exact .inr (.inl ⟨rest, rfl, by simp [step, h, runEvent]⟩)
    | bus tx => exact .inr (.inr ⟨tx, rest, rfl, by simp [step, h, runEvent]⟩)

end Sys2Proof.Machine
end

