-- ==== Sys2Proof/Laws/Crypt.lean ====
section
/-! SUPPORT. Lengths and shapes of the byte-string functions: blocks and their concatenation, the chain, the padding, the block
transform of the alphabetic cipher. -/

namespace Sys2Proof.Machine

theorem toList_blockOf (l : List Byte) (h : 16 ≤ l.length) : (blockOf l).toList = l.take 16 := by
  apply List.ext_getElem
  · simp; omega
  · intro i h1 h2
    have hi : i < 16 := by simpa using h1
    simp [blockOf, List.getElem?_eq_getElem (show i < l.length by omega)]

theorem blockOf_toList_append (b : Block) (l : List Byte) : blockOf (b.toList ++ l) = b := by
  apply Vector.ext
  intro i hi
  simp [blockOf, List.getElem?_append_left]

@[simp] theorem getElem_xorBlock (a b : Block) (i : Nat) (h : i < 16) : (xorBlock a b)[i] = a[i] ^^^ b[i] := by
  simp [xorBlock]

/-- The exclusive-or with a block undoes itself. -/
@[simp] theorem xorBlock_xorBlock (a b : Block) : xorBlock (xorBlock a b) b = a := by
  apply Vector.ext
  intro i hi
  simp

@[simp] theorem length_joinBlocks (bs : List Block) : (joinBlocks bs).length = 16 * bs.length := by
  induction bs with
  | nil => rfl
  | cons b bs ih => simp only [joinBlocks, List.flatMap_cons, List.length_append, List.length_cons] at ih ⊢; simp [ih]; omega

@[simp] theorem length_blocksOf (x : List Byte) : (blocksOf x).length = x.length / 16 := by simp [blocksOf]

@[simp] theorem length_cbcEncBlocks (f : Block → Block) (p : Block) (bs : List Block) :
    (cbcEncBlocks f p bs).length = bs.length := by
  induction bs generalizing p with
  | nil => rfl
  | cons b bs ih => simp [cbcEncBlocks, ih]

@[simp] theorem length_cbcDecBlocks (f : Block → Block) (p : Block) (bs : List Block) :
    (cbcDecBlocks f p bs).length = bs.length := by
  induction bs generalizing p with
  | nil => rfl
  | cons b bs ih => simp [cbcDecBlocks, ih]

/-- The blocks of a concatenation are the blocks. -/
theorem blocksOf_joinBlocks (bs : List Block) : blocksOf (joinBlocks bs) = bs := by
  apply List.ext_getElem
  · simp
  · intro i h1 h2
    simp only [blocksOf, List.getElem_map, List.getElem_range, blockAt]
    have : (joinBlocks bs).drop (16 * i) = joinBlocks (bs.drop i) := by
      clear h1 h2
      induction i generalizing bs with
      | zero => rfl
      | succ i ih =>
        cases bs with
        | nil => simp [joinBlocks]
        | cons b bs =>
          rw [List.drop_succ_cons, ← ih bs, show 16 * (i + 1) = 16 + 16 * i by omega, ← List.drop_drop]
          simp [joinBlocks]
    rw [this, List.drop_eq_getElem_cons h2]
    simp only [joinBlocks, List.flatMap_cons]
    exact blockOf_toList_append _ _

/-- A string of whole blocks is the concatenation of its blocks. -/
theorem joinBlocks_blocksOf (x : List Byte) (h : x.length % 16 = 0) : joinBlocks (blocksOf x) = x := by
  obtain ⟨m, hm⟩ : ∃ m, x.length = 16 * m := ⟨x.length / 16, by omega⟩
  clear h
  induction m generalizing x with
  | zero =>
    have : x = [] := List.length_eq_zero_iff.mp (by omega)
    subst this; rfl
  | succ m ih =>
    have hd : (x.drop 16).length = 16 * m := by simp; omega
    have hb : blocksOf x = blockOf x :: blocksOf (x.drop 16) := by
      have e1 : x.length / 16 = m + 1 := by omega
      have e2 : (x.drop 16).length / 16 = m := by omega
      simp only [blocksOf, e1, e2, List.range_succ_eq_map, List.map_cons, List.map_map]
      refine congrArg₂ _ (by simp [blockAt]) (List.map_congr_left fun i _ => ?_)
      simp only [Function.comp, blockAt, List.drop_drop]
      rw [show 16 * Nat.succ i = 16 + 16 * i by omega]
    rw [hb]
    have := ih (x.drop 16) hd
    simp only [joinBlocks, List.flatMap_cons] at this ⊢
    rw [this, toList_blockOf x (by omega), List.take_append_drop]

theorem length_cbcEnc (f : Block → Block) (iv : Block) (x : List Byte) (h : x.length % 16 = 0) :
    (cbcEnc f iv x).length = x.length := by
  simp only [cbcEnc, length_joinBlocks, length_cbcEncBlocks, length_blocksOf]; omega

theorem length_cbcDec (f : Block → Block) (iv : Block) (x : List Byte) (h : x.length % 16 = 0) :
    (cbcDec f iv x).length = x.length := by
  simp only [cbcDec, length_joinBlocks, length_cbcDecBlocks, length_blocksOf]; omega

theorem length_pad16 (s : List Byte) : (pad16 s).length = s.length + (16 - s.length % 16) := by
  simp [pad16, padLen]

/-- What `unpad16` answers is a prefix of its argument. -/
theorem unpad16_some {t r : List Byte} (h : unpad16 t = some r) :
    r = t.take (t.length - (t.getLastD 0).toNat) ∧ (t.getLastD 0).toNat ≠ 0 ∧ (t.getLastD 0).toNat ≤ 16 := by
  simp only [unpad16] at h
  split at h
  · cases h
  · rename_i hp
    split at h
    · simp only [Option.some.injEq] at h
      exact ⟨h.symm, by omega, by omega⟩
    · cases h

/-- The transform of a block and then the others, for a sequence of even length. -/
theorem applyBlocks_even (o : Orientation) (m : Mat2 Int) (v : List (Fin 26)) (h : v.length % 2 = 0) :
    (applyBlocks o m v).length = v.length := by
  match v with
  | [] => rfl
  | [_] => simp at h
  | x :: y :: rest =>
    simp only [applyBlocks, List.length_cons] at h ⊢
    rw [applyBlocks_even o m rest (by omega)]

/-- The two output components of block b. -/
theorem applyBlocks_at (o : Orientation) (m : Mat2 Int) (v : List (Fin 26)) (b : Nat) (x0 x1 : Fin 26)
    (h0 : v[2 * b]? = some x0) (h1 : v[2 * b + 1]? = some x1) :
    (applyBlocks o m v)[2 * b]? = some (applyBlock o m x0 x1).1 ∧
      (applyBlocks o m v)[2 * b + 1]? = some (applyBlock o m x0 x1).2 := by
  match v, b with
  | [], _ => simp at h0
  | [_], b => simp at h1
  | x :: y :: rest, 0 => simp_all [applyBlocks]
  | x :: y :: rest, b + 1 =>
    have e : 2 * (b + 1) = 2 * b + 1 + 1 := by omega
    rw [e] at h0 h1 ⊢
    simp only [applyBlocks, List.getElem?_cons_succ] at h0 h1 ⊢
    exact applyBlocks_at o m rest b x0 x1 h0 h1

theorem length_fill_even (s : List (Fin 26)) : (fill s).length % 2 = 0 := by
  unfold fill
  split
  · simp only [List.length_append, List.length_singleton]; omega
  · omega

end Sys2Proof.Machine
end

