-- ==== Sys2Proof/Laws/PerInstr.lean ====
section
/-! SUPPORT. The statements made per instruction, one lemma per constructor. -/

namespace Sys2Proof.Laws.EncodeShape

/-- The command word is the opcode byte under 24 zero bits (`30_encoding.md` R90, R91), and the decoder's two fields of it are
those. -/
def Statement (i : Instr) : Prop :=
  (encode i).toNat = (opcodeOf i).toNat ∧ rsvField (encode i) = 0 ∧ opField (encode i) = opcodeOf i

theorem nop : Statement .nop := by unfold Statement; decide
theorem mdet : Statement .mdet := by unfold Statement; decide
theorem minv : Statement .minv := by unfold Statement; decide
theorem henc : Statement .henc := by unfold Statement; decide
theorem hdec : Statement .hdec := by unfold Statement; decide
theorem kdrv : Statement .kdrv := by unfold Statement; decide
theorem pad : Statement .pad := by unfold Statement; decide
theorem unpd : Statement .unpd := by unfold Statement; decide
theorem cbce : Statement .cbce := by unfold Statement; decide
theorem cbcd : Statement .cbcd := by unfold Statement; decide
theorem encr : Statement .encr := by unfold Statement; decide
theorem decr : Statement .decr := by unfold Statement; decide
theorem clr : Statement .clr := by unfold Statement; decide

end Sys2Proof.Laws.EncodeShape
end

