-- ==== Sys2Proof/Tests/Slice0.lean ====
section
/-! SUPPORT. The model's own tests: the checks on terms, the decoder on words written out from R91, the vectors of
`95_test_vectors.md` (each named in its docstring), one step each; and for every statement with hypotheses a state that meets
them. -/

open Sys2Proof Sys2Proof.Machine

namespace Sys2Proof.Tests

/-! ## Helpers -/

/-- The `n` bytes written as one hexadecimal number, first byte first. -/
def bytes (n w : Nat) : List Byte := (List.range n).map fun i => BitVec.ofNat 8 (w >>> (8 * (n - 1 - i)))

/-- The state after `ldk a, b, c, d` and `ldi input` from reset. -/
def loaded (a b c d : Int) (input : List Byte) : State :=
  loadInput input
    { State.reset with
      k := ⟨BitVec.ofInt 32 a, BitVec.ofInt 32 b, BitVec.ofInt 32 c, BitVec.ofInt 32 d⟩ }

/-- The state an outcome answers, none for a stop. -/
def next (o : Host.Outcome State Fault Refusal) : Option State :=
  match o with
  | .next s => some s
  | .fault _ | .refused _ => none

/-- What a host that ran the command reads: STATUS, then the output. -/
def seen (o : Host.Outcome State Fault Refusal) : Option (Word × List Byte) :=
  (next o).map fun t => (statusWord t, output t)

/-- The reply to one transaction. -/
def replyTo (t : Txn) (s : State) : Option Reply := (next (runTxn t s)).bind fun u => u.replies.head?

/-! ## Checks on terms: an ill-formed term for each check, at its bound -/

theorem test_config_default_accepted : Config.default.wf = true := by decide

theorem test_config_iter_refused :
    ({ Config.default with iter := 99999 }).wf = false ∧ ({ Config.default with iter := 2 ^ 32 }).wf = false ∧
      ({ Config.default with iter := 2 ^ 32 - 1 }).wf = true := by decide

theorem test_config_pbuf_refused :
    ({ Config.default with pbufCap := 0 }).wf = false ∧ ({ Config.default with pbufCap := 1025 }).wf = false ∧
      ({ Config.default with pbufCap := 1 }).wf = true := by decide

theorem test_config_ibuf_refused :
    ({ Config.default with ibufCap := 0 }).wf = false ∧
      ({ Config.default with ibufCap := 16385, obufCap := 16433 }).wf = false ∧
        ({ Config.default with ibufCap := 1 }).wf = true := by decide

theorem test_config_obuf_refused :
    ({ Config.default with obufCap := 16431 }).wf = false ∧ ({ Config.default with obufCap := 32769 }).wf = false ∧
      ({ Config.default with obufCap := 32768 }).wf = true := by decide

/-! ## Decoding: the words of R91 bit by bit, and back -/

theorem test_decode_control :
    decodeTableWord 32 0b00000000000000000000000000000000 = some .nop ∧
      decodeTableWord 32 0b00000000000000000000000001111111 = some .clr ∧
        encode .nop = 0b00000000000000000000000000000000#32 ∧ encode .clr = 0b00000000000000000000000001111111#32 := by
  decide

theorem test_decode_matrix :
    decodeTableWord 32 0b00000000000000000000000000000001 = some .mdet ∧
      decodeTableWord 32 0b00000000000000000000000000000010 = some .minv ∧
        encode .mdet = 0b00000000000000000000000000000001#32 ∧ encode .minv = 0b00000000000000000000000000000010#32 := by
  decide

theorem test_decode_hill :
    decodeTableWord 32 0b00000000000000000000000000010000 = some .henc ∧
      decodeTableWord 32 0b00000000000000000000000000010001 = some .hdec ∧
        encode .henc = 0b00000000000000000000000000010000#32 ∧ encode .hdec = 0b00000000000000000000000000010001#32 := by
  decide

theorem test_decode_kdf :
    decodeTableWord 32 0b00000000000000000000000000100000 = some .kdrv ∧
      encode .kdrv = 0b00000000000000000000000000100000#32 := by decide

theorem test_decode_padding :
    decodeTableWord 32 0b00000000000000000000000000110000 = some .pad ∧
      decodeTableWord 32 0b00000000000000000000000000110001 = some .unpd ∧
        encode .pad = 0b00000000000000000000000000110000#32 ∧ encode .unpd = 0b00000000000000000000000000110001#32 := by
  decide

theorem test_decode_cbc :
    decodeTableWord 32 0b00000000000000000000000001000000 = some .cbce ∧
      decodeTableWord 32 0b00000000000000000000000001000001 = some .cbcd ∧
        encode .cbce = 0b00000000000000000000000001000000#32 ∧ encode .cbcd = 0b00000000000000000000000001000001#32 := by
  decide

theorem test_decode_pipeline :
    decodeTableWord 32 0b00000000000000000000000001010000 = some .encr ∧
      decodeTableWord 32 0b00000000000000000000000001010001 = some .decr ∧
        encode .encr = 0b00000000000000000000000001010000#32 ∧ encode .decr = 0b00000000000000000000000001010001#32 := by
  decide

/-- B1, B2, B3 of section 2.5 and the two illegal words of program P2. -/
theorem test_decode_illegal :
    [0x100, 0xFFFFFFFF, 0x12, 0x150, 0x03].map (decodeTableWord 32) = [none, none, none, none, none] := by decide

/-- A row of 8 bits: the bits above are zero. -/
theorem test_decode_short_row : decodeTableWord 8 0x151 = some .decr ∧ decodeTableWord 8 0x03 = none := by decide

/-- M3: MINV as the first command after reset. -/
theorem test_fetch_word :
    (next (step (State.reset.withFetchWord 32 0x02))).map (fun t => (statusWord t, t.inbox, t.replies)) =
      some (0x00000113#32, [], [.ok]) := by decide

/-! ## The matrix family (section 2.1) -/

/-- M9: the largest determinant. -/
theorem test_mdet_largest :
    (next (exec .mdet (loaded (-2147483648) 2147483647 (-2147483648) (-2147483648) []))).map
        (fun t => (t.det, t.detm.val, statusWord t)) =
      some (0x7FFFFFFF80000000#64, 10, 0x00000101#32) := by decide

/-- MV3: MDET after M1 keeps DINV, KI and KIV. -/
theorem test_mdet_keeps_inverse :
    ((next (exec .minv (loaded 7 8 10 3 []))).bind fun t => next (exec .mdet t)).map
        (fun t => (t.dinv.val, t.ki.map Fin.val, statusWord t)) =
      some (11, ⟨7, 16, 20, 25⟩, 0x00000301#32) := by decide

/-- M19: negative entries. -/
theorem test_minv_negative_entries :
    (next (exec .minv (loaded (-7) (-8) (-10) (-3) []))).map
        (fun t => (t.det, t.detm.val, t.dinv.val, t.ki.map Fin.val, statusWord t)) =
      some (0xFFFFFFFFFFFFFFC5#64, 19, 11, ⟨19, 10, 6, 1⟩, 0x00000301#32) := by decide

/-- M2: no inverse; DET and DETM are written all the same. -/
theorem test_minv_invalid :
    (next (exec .minv (loaded 2 4 6 8 []))).map (fun t => (t.det, t.detm.val, t.dinv.val, statusWord t)) =
      some (0xFFFFFFFFFFFFFFF8#64, 18, 0, 0x00000113#32) := by decide

/-- MV1: writing K00 with the value it holds clears what was derived. -/
theorem test_key_write_clears :
    ((next (exec .minv (loaded 7 8 10 3 []))).bind fun t => next (runTxn (.write32 0x0010#16 7#32) t)).map
        (fun t => (statusWord t, t.det, t.dinv.val, t.ki.map Fin.val)) =
      some (0x00000001#32, 0, 0, ⟨0, 0, 0, 0⟩) := by decide

/-! ## The alphabetic matrix cipher (section 2.2) -/

/-- H3, both orientations: "A.C-T 9" gives "QGFM" and "UGZA". -/
theorem test_henc_orientations :
    seen (exec .henc (loaded 7 8 10 3 (bytes 7 0x412E432D542039))) = some (0x00000001#32, bytes 4 0x5147464D) ∧
      seen (exec .henc { loaded 7 8 10 3 (bytes 7 0x412E432D542039) with cfg := { Config.default with orient := .row } }) =
        some (0x00000001#32, bytes 4 0x55475A41) := by decide

/-- H14: HENC does not check the key. -/
theorem test_henc_zero_key :
    seen (exec .henc (loaded 0 0 0 0 (bytes 5 0x48454C4C4F))) = some (0x00000001#32, bytes 6 0x414141414141) := by decide

/-- H23: lower case is folded; the filler stays. -/
theorem test_hdec_lower_case :
    seen (exec .hdec (loaded 7 8 10 3 (bytes 4 0x7167666D))) = some (0x00000301#32, bytes 4 0x4143544B) := by decide

/-- H18 and H21: the key is judged before the letter count. -/
theorem test_hdec_errors :
    seen (exec .hdec (loaded 7 8 10 3 (bytes 3 0x514746))) = some (0x00000323#32, []) ∧
      seen (exec .hdec (loaded 2 4 6 8 (bytes 3 0x514746))) = some (0x00000113#32, []) := by decide

/-! ## Padding (section 2.3) -/

/-- P1 and P3. -/
theorem test_pad_short :
    seen (exec .pad (loaded 0 0 0 0 [])) = some (0x00000001#32, bytes 16 0x10101010101010101010101010101010) ∧
      seen (exec .pad (loaded 0 0 0 0 (bytes 2 0x6162))) =
        some (0x00000001#32, bytes 16 0x61620E0E0E0E0E0E0E0E0E0E0E0E0E0E) := by decide

/-- P5: a whole block gets a whole block of padding. -/
theorem test_pad_whole_block :
    seen (exec .pad (loaded 0 0 0 0 (bytes 16 0x6162636465666768696A6B6C6D6E6F70))) =
      some (0x00000001#32, bytes 32 0x6162636465666768696A6B6C6D6E6F7010101010101010101010101010101010) := by decide

/-- U3 and U15. -/
theorem test_unpd_strips :
    seen (exec .unpd (loaded 0 0 0 0 (bytes 16 0x49434520494345204241425904040404))) =
        some (0x00000001#32, bytes 12 0x494345204943452042414259) ∧
      seen (exec .unpd (loaded 0 0 0 0 (bytes 16 0x10101010101010101010101010101001))) =
        some (0x00000001#32, bytes 15 0x101010101010101010101010101010) := by decide

/-- U13, U16, U6, U9 and U10. -/
theorem test_unpd_errors :
    ([bytes 16 0x41414141414141414141414141410302, bytes 16 0x0F101010101010101010101010101010,
        bytes 16 0x41414141414141414141414141414100, bytes 15 0x414141414141414141414141414141, []].map fun b =>
      seen (exec .unpd (loaded 0 0 0 0 b))) =
      [some (0x00000033#32, []), some (0x00000033#32, []), some (0x00000033#32, []), some (0x00000023#32, []),
        some (0x00000023#32, [])] := by decide

/-! ## The pipeline under the toy parameters of section 3 -/

/-- `Etoy`. -/
def toyEnc (k : Key) (x : Block) : Block := Vector.ofFn fun i : Fin 16 =>
  (x.toList.getD ((i.val + 1) % 16) 0 + k.toList.getD i.val 0) ^^^ k.toList.getD (16 + i.val) 0

/-- `Dtoy`. -/
def toyDec (k : Key) (y : Block) : Block := Vector.ofFn fun j : Fin 16 =>
  (y.toList.getD ((j.val + 15) % 16) 0 ^^^ k.toList.getD (16 + (j.val + 15) % 16) 0) - k.toList.getD ((j.val + 15) % 16) 0

/-- `KDFtoy`. -/
def toyKdf (pw : List Byte) (salt : Block) : Key := Vector.ofFn fun i : Fin 32 =>
  salt.toList.getD (i.val % 16) 0 + BitVec.ofNat 8 (7 * i.val) + pw.foldl (· + ·) 0 + pw.getD (i.val % pw.length) 0

/-- The draw's first half, `10 11 .. 1f`. -/
def toySalt : Block := blockOf (bytes 16 0x101112131415161718191A1B1C1D1E1F)

/-- The draw's second half, `a0 a1 .. af`. -/
def toyIv : Block := blockOf (bytes 16 0xA0A1A2A3A4A5A6A7A8A9AAABACADAEAF)

/-- The key `00 01 .. 1f`. -/
def countKey : Key := keyOf (bytes 32 0x000102030405060708090A0B0C0D0E0F101112131415161718191A1B1C1D1E1F)

/-- C2. -/
theorem test_cbc_enc :
    cbcEnc (toyEnc countKey) toyIv (bytes 32 0x59454C4C4F57205355424D4152494E4510101010101010101010101010101010) =
      bytes 32 0xF4FEE3FDE29EEC13EBE9EE12ECF0E617FEE5FDE686141F15191E161CF01E0BEC := by decide

/-- C4. -/
theorem test_cbc_dec :
    cbcDec (toyDec countKey) toyIv (List.replicate 32 0) =
      bytes 32 0xB0B1B2B3B4B5B6B7B8B9BABBBCBDBEBF10101010101010101010101010101010 := by decide

/-- E2: the frame of "hi" under "pw". -/
theorem test_frame_seal :
    sealFrame toyKdf toyEnc (bytes 2 0x7077) toySalt toyIv (bytes 2 0x6869) =
      bytes 48 0x101112131415161718191A1B1C1D1E1FA0A1A2A3A4A5A6A7A8A9AAABACADAEAFF8C4C3C6C538475A597C7B5E5D303FF8 := by
  decide

/-- E4 and E7: the frame of E2 opened with the wrong password, and with a changed byte and the right one. -/
theorem test_frame_open :
    openFrame toyKdf toyDec (bytes 2 0x7057)
        (bytes 48 0x101112131415161718191A1B1C1D1E1FA0A1A2A3A4A5A6A7A8A9AAABACADAEAFF8C4C3C6C538475A597C7B5E5D303FF8) =
      bytes 16 0xE8A98E0E8E0E0E8E8E8E8E4E8E0E0ECE ∧
    unpad16 (openFrame toyKdf toyDec (bytes 2 0x7077)
        (bytes 48 0x101112131415161718191A1B1C1D1E1FA0A1A2A3A4A5A6A7A8A9AAABACADAEAFF8C4C3C6C538475A597C7B5E5D303FF9)) =
      some (bytes 2 0x6969) := by decide

/-- The two halves of a draw (R183). -/
theorem test_draw_halves :
    drawSalt (keyOf (toySalt.toList ++ toyIv.toList)) = toySalt ∧
      drawIv (keyOf (toySalt.toList ++ toyIv.toList)) = toyIv := by decide

/-- R153: two iterations over a PRF that adds 1 to each byte of its key, 4 bytes long, give `U1 xor U2` in each block. -/
theorem test_pbkdf2_blocks :
    pbkdf2 (fun k m => (k.map (· + 1)).zipWith (· ^^^ ·) (m.drop (m.length - 4))) 4 (bytes 4 0x01020304) [] 2 6 =
      bytes 6 0x020304050203 := by decide

/-- X1: NoKey after reset. -/
theorem test_cbc_no_key :
    seen (exec .cbce State.reset) = some (0x00000043#32, []) ∧ seen (exec .cbcd State.reset) = some (0x00000043#32, []) := by
  decide

/-- X2: with a key, lengths 0 and 17 are malformed. -/
theorem test_cbc_lengths :
    ([0, 17].map fun n => seen (exec .cbce { State.reset with keyv := true, ilen := n })) =
        [some (0x00000423#32, []), some (0x00000423#32, [])] ∧
      ([0, 17].map fun n => seen (exec .cbcd { State.reset with keyv := true, ilen := n })) =
        [some (0x00000423#32, []), some (0x00000423#32, [])] := by decide

/-- X3: KDRV after reset sets KEYV. -/
theorem test_kdrv_status : (next (exec .kdrv State.reset)).map statusWord = some 0x00000401#32 := by decide

/-- X6: ENCR succeeds and leaves no key valid. -/
theorem test_encr_status :
    (next (exec .encr { State.reset with keyv := true })).map (fun t => (statusWord t, t.draws)) =
      some (0x00000001#32, 1) := by decide

/-- X4: DECR with no well-formed frame keeps SALT and KEYV. -/
theorem test_decr_malformed :
    ([0, 31, 32, 33, 47, 49].map fun n =>
      (next (exec .decr { State.reset with keyv := true, salt := toySalt, ilen := n })).map fun t =>
        (statusWord t, t.salt)) = List.replicate 6 (some (0x00000423#32, toySalt)) := by decide

/-! ## Control and the bus (section 2.5, program P2) -/

/-- NOP after a failed MINV: ERR and ECODE are cleared, ESTK is kept. -/
theorem test_nop_keeps_sticky :
    ((next (exec .minv State.reset)).bind fun t => next (exec .nop t)).map (fun t => (statusWord t, stickyWord t)) =
      some (0x00000101#32, 0x00000002#32) := by decide

/-- The end of program P3: CLR keeps ESTK and clears the lengths. -/
theorem test_clr :
    (next (exec .clr { loaded 7 8 10 3 (bytes 2 0x6869) with estk := 0b00110#5, keyv := true, olen := 2, plen := 2 })).map
        (fun t => (statusWord t, stickyWord t, t.ilen, t.olen, t.plen, t.k.m00)) =
      some (0x00000001#32, 0x0000000C#32, 0, 0, 0, 7#32) := by decide

/-- The seven refused transactions of program P2, and the two boundaries of B6. -/
theorem test_bus_refused :
    ([.write32 0x0040#16 0x4001#32, .write32 0x0042#16 1#32, .read8 0x0010#16, .read32 0x0100#16, .read32 0x005C#16,
        .write8 0x0120#16 0#8, .read8 0xC030#16, .write32 0x0048#16 0x401#32].map fun t => replyTo t State.reset) =
      List.replicate 8 (some .busErr) := by decide

/-- B4 to B8: constants, the last bytes of the windows, ESTK written with ones. -/
theorem test_bus_accepted :
    ([.read32 0x0000#16, .read32 0x004C#16, .read32 0x0050#16, .read32 0x0054#16, .read32 0x0058#16, .read8 0x07FF#16,
        .read8 0xC02F#16, .write32 0x0040#16 0x4000#32].map fun t => replyTo t State.reset) =
      [some (.word 0x4344481A#32), some (.word 0x000186A0#32), some (.word 0x00004000#32), some (.word 0x00004030#32),
        some (.word 0x00000400#32), some (.byte 0), some (.byte 0), some .ok] ∧
    (next (runTxn (.write32 0x000C#16 0xFFFFFFFF#32) { State.reset with estk := 0b11111#5 })).map State.estk = some 0 ∧
    (next (runTxn (.write32 0x000C#16 1#32) { State.reset with estk := 0b11111#5 })).map State.estk = some 0b11111#5 := by
  decide

/-- R98, R99: `ldi "Q"` then `cmd HDEC`, in the listing form. -/
theorem test_listing :
    ((Asm.ldi [0x51#8] ++ [Asm.cmd .hdec]).map Asm.listing) =
      ["W1 4000 51".toList, "W4 0040 00000001".toList, "W4 0004 00000011".toList] := by decide

/-! ## Witnesses: for each statement with hypotheses, a state and operands that meet them, clause by clause -/

/-- A word that is no command differs from every command word. -/
theorem illegal_word {w : Word} (h : decodeTableWord 32 w.toNat = none) (i : Instr) : w ≠ encode i := by
  rintro rfl
  revert h
  cases i <;> decide

theorem witness_StepRunsDecodedCommand :
    (State.reset.withFetchWord 32 0x11).inbox = commandEvent 0x11#32 :: [] ∧ decode 0x11#32 = .ok .hdec := by decide

theorem witness_StepDeliversNextEvent :
    ({ State.reset with inbox := [.bus (.read8 0x0100#16), .reset] }).inbox = .bus (.read8 0x0100#16) :: [.reset] ∧
      ({ State.reset with inbox := [.reset] }).inbox = .reset :: [] ∧ State.reset.inbox = [] := by decide

theorem witness_EveryStepAnswersAndConsumesOneEvent :
    (State.reset.withFetchWord 32 0x50).inbox = .bus (.write32 0x04#16 0x50#32) :: [] ∧
      ∀ tx rest, State.reset.inbox ≠ .bus tx :: rest :=
  ⟨by decide, fun _ _ h => by cases h⟩

theorem witness_DecodeAcceptsExactlyCommandWords :
    256 ≤ (0x100#32 : Word).toNat ∧ (0xFF#32 : Word).toNat < 256 ∧ (∀ i, (0xFF#32 : Word) ≠ encode i) ∧
      encode .clr = encode .clr :=
  ⟨by decide, by decide, illegal_word (by decide), rfl⟩

theorem witness_IllegalWordOnlyCompletesWithFive :
    ({ State.reset with inbox := [commandEvent 0x150#32] }).inbox = commandEvent 0x150#32 :: [] ∧
      ∀ i, (0x150#32 : Word) ≠ encode i :=
  ⟨rfl, illegal_word (by decide)⟩

theorem witness_StickyRecordKeepsErrors : ∃ t, runWord 0x02#32 State.reset = .next t ∧ t.estk = 0b00001#5 :=
  ⟨_, rfl, by decide⟩

theorem witness_FailedCommandLeavesNoOutput :
    ∃ t, isBufferProducing .hdec = true ∧ exec .hdec (loaded 2 4 6 8 (bytes 4 0x5147464D)) = .next t ∧ t.ecode ≠ .success :=
  ⟨_, by decide, rfl, by decide⟩

theorem witness_ResetZeroesEverything : State.reset.k = Mat2.const 0 := by decide

/-- The state of program P1 after MINV, with the next word waiting. -/
def afterMinv : State :=
  { State.reset with
    k := ⟨7, 8, 10, 3⟩, det := BitVec.ofInt 64 (-59), detv := true, detm := 19, dinv := 11, ki := ⟨7, 16, 20, 25⟩,
    kiv := true, done := true, inbox := [commandEvent 0x11#32] }

theorem afterMinv_inv : afterMinv.Inv where
  cfg := by decide
  derived := ⟨fun _ => (by decide), fun _ => (by decide), fun h => (nomatch h), fun h => (nomatch h)⟩
  buffers := by constructor <;> decide
  status := ⟨by decide, fun h => (nomatch h), fun _ => (by decide)⟩

theorem witness_StepKeepsInvariant : ∃ t, afterMinv.Inv ∧ step afterMinv = .next t ∧ t.ecode = .success :=
  ⟨_, afterMinv_inv, rfl, by decide⟩

/-- Reset with a command waiting meets the invariant, with DETV and KIV clear. -/
theorem waiting_inv : (State.reset.withFetchWord 32 0x02).Inv where
  cfg := by decide
  derived := ⟨fun h => (nomatch h), fun h => (nomatch h), fun _ => (by decide), fun _ => (by decide)⟩
  buffers := by constructor <;> decide
  status := ⟨by decide, fun _ => (by decide), fun _ => (by decide)⟩

theorem witness_InvariantMeansDerivedRegistersAreCurrent :
    (afterMinv.Inv ∧ afterMinv.detv = true ∧ afterMinv.kiv = true) ∧
      ((State.reset.withFetchWord 32 0x02).Inv ∧ (State.reset.withFetchWord 32 0x02).detv = false ∧
        (State.reset.withFetchWord 32 0x02).kiv = false) :=
  ⟨⟨afterMinv_inv, by decide, by decide⟩, waiting_inv, by decide, by decide⟩

theorem witness_RegisterMapIsExact : regAt 0x58#16 = some .pcap := by decide

/-- The first address of each refused range, and the last one below the end. -/
theorem witness_IllFormedAccessesAreRefused :
    State.reset.cfg.wf = true ∧ (0x42#16 : Addr).toNat % 4 ≠ 0 ∧ 0x0100 ≤ (0x0100#16 : Addr).toNat ∧
      (0xFF#16 : Addr).toNat < 0x0100 ∧ (0x005C ≤ (0x5C#16 : Addr).toNat ∧ (0x5C#16 : Addr).toNat < 0x0100) ∧
        (0x0120 ≤ (0x120#16 : Addr).toNat ∧ (0x3FF#16 : Addr).toNat < 0x0400) ∧
          (0x0400 + State.reset.cfg.pbufCap ≤ (0x800#16 : Addr).toNat ∧ (0x3FFF#16 : Addr).toNat < 0x4000) ∧
            (0x4000 + ({ Config.default with ibufCap := 1 }).ibufCap ≤ (0x4001#16 : Addr).toNat ∧
              ({ Config.default with ibufCap := 1 }).wf = true ∧ (0x7FFF#16 : Addr).toNat < 0x8000) ∧
              0x8000 + State.reset.cfg.obufCap ≤ (0xC030#16 : Addr).toNat := by decide

theorem witness_RefusedTransactionChangesNothing :
    ∃ t, runTxn (.write32 0x40#16 0x4001#32) State.reset = .next t ∧ t.replies = .busErr :: State.reset.replies :=
  ⟨_, rfl, by decide⟩

theorem witness_WordReadValues : busRead32 0x00#16 State.reset = some 0x4344481A#32 := by decide

theorem witness_LengthWritesAreRangeChecked :
    ∃ t, afterMinv.ilen ≤ afterMinv.cfg.ibufCap ∧ afterMinv.plen ≤ afterMinv.cfg.pbufCap ∧ step afterMinv = .next t :=
  ⟨_, by decide, by decide, rfl⟩

theorem witness_ByteAddressMapIsExact : Config.default.wf = true ∧ 1023 < Config.default.pbufCap ∧
    16383 < Config.default.ibufCap ∧ 16431 < Config.default.obufCap := by decide

theorem witness_ByteReadValues : State.reset.cfg.wf = true ∧ 1023 < State.reset.cfg.pbufCap ∧
    16383 < State.reset.cfg.ibufCap ∧ 16431 < State.reset.cfg.obufCap := by decide

theorem witness_ByteWriteStoresOneByte :
    Memory.wf State.reset.pbuf = true ∧ Memory.wf State.reset.ibuf = true ∧
      byteAt State.reset.cfg 0x7FFF#16 = some (.ibuf 16383) ∧ byteAt State.reset.cfg 0x8000#16 = some (.obuf 0) ∧
        byteAt State.reset.cfg 0x010F#16 = some (.salt 15) ∧ byteAt State.reset.cfg 0x0110#16 = some (.iv 0) ∧
          byteAt State.reset.cfg 0x07FF#16 = some (.pbuf 1023) := by decide

theorem witness_SecretsAreNotReadable :
    State.reset.publicEq { State.reset with pbuf := [(0, 0x70)], key := Vector.replicate 32 1 } ∧
      ∀ w, Txn.read8 0x0400#16 ≠ .write32 0x04#16 w :=
  ⟨rfl, fun _ h => by cases h⟩

theorem witness_LoadInputThroughTheBus :
    ∃ s : State, s.cfg.wf = true ∧ Memory.wf s.ibuf = true ∧ (bytes 3 0x414354).length ≤ s.cfg.ibufCap ∧
      s.inbox = (Asm.ldi (bytes 3 0x414354)).map .bus :=
  ⟨{ State.reset with inbox := (Asm.ldi (bytes 3 0x414354)).map .bus }, by decide, by decide, by decide, rfl⟩

theorem witness_RemainderIsFloored : (26 : Int) ∣ -59 - ((19 : Fin 26).val : Int) := by decide

theorem witness_MinvWritesInverseOrInvalidKey :
    keyGood (loaded 7 8 10 3 []).k ∧ ¬keyGood (loaded 2 4 6 8 []).k := by unfold keyGood; decide

theorem witness_InverseMatrixIsTheInverse : minv26 ⟨7, 8, 10, 3⟩ = some (19, 11, ⟨7, 16, 20, 25⟩) := by decide

theorem witness_AlphabetMapping :
    (0x5A#8 : Byte).toNat ≤ 0x5A ∧ 0x61 ≤ (0x61#8 : Byte).toNat ∧ (0x40#8 : Byte).toNat < 0x41 ∧
      (0x5A < (0x5B#8 : Byte).toNat ∧ (0x60#8 : Byte).toNat < 0x61) ∧ 0x7A < (0x7B#8 : Byte).toNat := by decide

theorem witness_HencEncodesEveryBlock :
    (strip (bytes 3 0x414354) ++ [10])[2 * 1]? = some 19 ∧ (strip (bytes 3 0x414354) ++ [10])[2 * 1 + 1]? = some 10 := by
  decide

theorem witness_HdecDecodesOrReportsWhy :
    ¬keyGood (loaded 2 4 6 8 []).k ∧ keyGood (loaded 7 8 10 3 []).k ∧
      (strip (message (loaded 7 8 10 3 (bytes 3 0x514746)))).length % 2 = 1 ∧
        (strip (message (loaded 7 8 10 3 (bytes 4 0x5147464D)))).length % 2 = 0 ∧
          (strip (message (loaded 7 8 10 3 (bytes 4 0x5147464D))))[2 * 1]? = some 5 ∧
            (strip (message (loaded 7 8 10 3 (bytes 4 0x5147464D))))[2 * 1 + 1]? = some 12 := by
  unfold keyGood; decide

theorem witness_HillRoundTrip :
    keyGood (loaded 7 8 10 3 (bytes 3 0x414354)).k ∧ Memory.wf (loaded 7 8 10 3 (bytes 3 0x414354)).ibuf = true := by
  unfold keyGood; decide

theorem witness_EncodingUndoesDecoding :
    keyGood (loaded 7 8 10 3 (bytes 2 0x6E6F)).k ∧ Memory.wf (loaded 7 8 10 3 (bytes 2 0x6E6F)).ibuf = true ∧
      (strip (message (loaded 7 8 10 3 (bytes 2 0x6E6F)))).length % 2 = 0 := by unfold keyGood; decide

/-- S3: keys of determinant 0, 2, 13 and 26 (M3, M14, M13, M21). -/
theorem witness_InvalidKeyNeverDecodes :
    ¬keyGood (loaded 1 0 0 13 []).k ∧ detOf (loaded 0 0 0 0 []).k = 0 ∧ detOf (loaded 1 0 0 2 []).k = 2 ∧
      detOf (loaded 1 0 0 13 []).k = 13 ∧ detOf (loaded 26 0 0 1 []).k = 26 := by unfold keyGood; decide

theorem witness_DefaultKdfIsOneBlock :
    ∃ prf : List Byte → List Byte → List Byte, (∀ k m, (prf k m).length = 32) ∧ 1 ≤ 100000 :=
  ⟨fun k m => (keyOf (k ++ m)).toList, fun _ _ => by simp, by decide⟩

theorem witness_UnpaddingIsStrict :
    0 < (List.replicate 16 (16#8)).length ∧ (List.replicate 16 (16#8)).length % 16 = 0 ∧
      unpad16 (List.replicate 16 (16#8)) = some [] ∧ unpad16 (List.replicate 16 (17#8)) = none := by decide

theorem witness_UnpadInvertsPad :
    0 < (List.replicate 16 (16#8)).length ∧ (List.replicate 16 (16#8)).length % 16 = 0 ∧
      pad16 [] = List.replicate 16 (16#8) := by decide

/-- Lengths 0 and 1, a whole block that is not padded, and one that is. -/
theorem witness_UnpdStripsOrReportsWhy :
    State.reset.ilen = 0 ∧ (loaded 0 0 0 0 [1]).ilen % 16 ≠ 0 ∧
      ((loaded 0 0 0 0 (List.replicate 16 17)).ilen ≠ 0 ∧ (loaded 0 0 0 0 (List.replicate 16 17)).ilen % 16 = 0 ∧
        unpad16 (message (loaded 0 0 0 0 (List.replicate 16 17))) = none) ∧
        unpad16 (message (loaded 0 0 0 0 (List.replicate 16 16))) = some [] := by decide

theorem witness_ChainingEquations : (List.replicate 16 (0#8)).length = 16 * 1 ∧ 1 ≤ 1 ∧ 0 < 1 := by decide

theorem witness_ChainedBlockRoundTrip :
    0 < (List.replicate 16 (0#8)).length ∧ (List.replicate 16 (0#8)).length % 16 = 0 := by decide

/-- No key; a key and a bad length; a key and a whole block. -/
theorem witness_CbceEncryptsOrReportsWhy :
    State.reset.keyv = false ∧
      (({ State.reset with keyv := true, ilen := 17 }).keyv = true ∧
        ({ State.reset with keyv := true, ilen := 17 }).ilen % 16 ≠ 0) ∧
        ({ State.reset with keyv := true, ilen := 16 }).ilen ≠ 0 ∧
          ({ State.reset with keyv := true, ilen := 16 }).ilen % 16 = 0 := by decide

theorem witness_CbcdDecryptsOrReportsWhy :
    State.reset.keyv = false ∧
      (({ State.reset with keyv := true }).keyv = true ∧ ({ State.reset with keyv := true }).ilen = 0) ∧
        ({ State.reset with keyv := true, ilen := 32 }).ilen ≠ 0 ∧
          ({ State.reset with keyv := true, ilen := 32 }).ilen % 16 = 0 := by decide

/-- One encrypted block decrypts to it, in the form the witnesses of DECR need. -/
theorem one_block (k : Key) (iv x : Block) :
    cbcDec (Config.blockDec k) iv (cbcEnc (Config.blockEnc k) iv x.toList) = x.toList := by
  have hx : blocksOf x.toList = [x] := by
    simpa [joinBlocks] using blocksOf_joinBlocks [x]
  simp only [cbcDec, cbcEnc, hx, blocksOf_joinBlocks, cbcEncBlocks, cbcDecBlocks]
  simp [Config.blockDec, Config.blockEnc, joinBlocks]

/-- The state whose input is the frame of zero salt and IV with the block `x` under the empty password. -/
def framed (x : Block) : State :=
  loadInput
    (List.replicate 32 0 ++ cbcEnc (Config.blockEnc (Config.kdf 100000 [] zeroBlock)) zeroBlock x.toList) State.reset

theorem framed_message (x : Block) :
    message (framed x) =
      List.replicate 32 0 ++ cbcEnc (Config.blockEnc (Config.kdf 100000 [] zeroBlock)) zeroBlock x.toList :=
  Memory.readBytes_writeBytes [] 0 _ rfl

theorem framed_ilen (x : Block) : (framed x).ilen = 48 := by
  simp [framed, loadInput, length_cbcEnc]

theorem framed_opens (x : Block) :
    cbcDec (Config.blockDec (Config.kdf (framed x).cfg.iter (password (framed x)) zeroBlock)) zeroBlock
      ((message (framed x)).drop 32) = x.toList := by
  rw [framed_message, List.drop_append_of_le_length (by simp), List.drop_eq_nil_of_le (by simp), List.nil_append]
  exact one_block _ _ _

/-- A length of 32 and one of 33; a frame whose padding is wrong, and one whose padding is right. -/
theorem witness_DecrOpensTheFrameOrReportsWhy :
    ({ State.reset with ilen := 32 }).ilen ≤ 32 ∧ (({ State.reset with ilen := 33 }).ilen - 32) % 16 ≠ 0 ∧
      (32 < (framed (Vector.replicate 16 17)).ilen ∧ ((framed (Vector.replicate 16 17)).ilen - 32) % 16 = 0 ∧
        ∃ x, x = cbcDec (Config.blockDec
            (Config.kdf (framed (Vector.replicate 16 17)).cfg.iter (password (framed (Vector.replicate 16 17))) zeroBlock))
            zeroBlock ((message (framed (Vector.replicate 16 17))).drop 32) ∧ unpad16 x = none) ∧
        (32 < (framed (Vector.replicate 16 16)).ilen ∧ ((framed (Vector.replicate 16 16)).ilen - 32) % 16 = 0 ∧
          ∃ x, x = cbcDec (Config.blockDec
              (Config.kdf (framed (Vector.replicate 16 16)).cfg.iter (password (framed (Vector.replicate 16 16))) zeroBlock))
              zeroBlock ((message (framed (Vector.replicate 16 16))).drop 32) ∧ unpad16 x = some []) := by
  refine ⟨by decide, by decide, ⟨?_, ?_, _, rfl, ?_⟩, ?_, ?_, _, rfl, ?_⟩
  all_goals first | (rw [framed_opens]; decide) | (rw [framed_ilen]; decide) | rw [framed_ilen]

theorem witness_EncryptDecryptRoundTrip : Memory.wf (loaded 0 0 0 0 (bytes 2 0x6869)).ibuf = true := by decide

theorem witness_PipelineEqualsPrimitiveCommands :
    Memory.wf (loaded 0 0 0 0 (bytes 48 1)).ibuf = true ∧ 32 < (loaded 0 0 0 0 (bytes 48 1)).ilen ∧
      ((loaded 0 0 0 0 (bytes 48 1)).ilen - 32) % 16 = 0 := by decide

theorem witness_KeyLivesOnlyAfterKdrv :
    (32 < ({ State.reset with ilen := 48 }).ilen ∧ (({ State.reset with ilen := 48 }).ilen - 32) % 16 = 0) ∧
      (Instr.decr ≠ .kdrv ∧ Instr.decr ≠ .encr ∧ Instr.decr ≠ .clr ∧ ({ State.reset with ilen := 32 }).ilen ≤ 32) := by
  decide

theorem witness_ComponentsAreIndependent : isMatrixFamily .hdec = true ∧ isPipelineFamily .decr = true := by decide

/-- The byte at ILEN differs, the bytes below do not. -/
theorem witness_BytesBeyondLengthsAreIgnored :
    (∀ o, o < (loaded 7 8 10 3 (bytes 1 0x51)).ilen →
      Memory.read [(0, 0x51), (1, 0x47)] o = Memory.read (loaded 7 8 10 3 (bytes 1 0x51)).ibuf o) ∧
      Memory.read [(0, 0x51), (1, 0x47)] 1 ≠ Memory.read (loaded 7 8 10 3 (bytes 1 0x51)).ibuf 1 ∧
        ∀ o, o < (loaded 7 8 10 3 []).plen → Memory.read [(0, 1)] o = Memory.read (loaded 7 8 10 3 []).pbuf o := by decide

end Sys2Proof.Tests
end

section
/-! The scope rules of `00_scope.md`: the floored remainder (R10), the alphabet (R13), and the independence of the matrix unit
and the pipeline (R3). -/

namespace Sys2Proof.Machine

/-! ### The floored remainder (R10) -/

theorem dvd_sub_mod26 (z : Int) : (26 : Int) ∣ z - (mod26 z).val := by
  rw [val_mod26]
  exact Int.dvd_self_sub_emod

/-- Two residues of one integer differ by a multiple of 26 and lie in [0, 26), so they are equal. -/
theorem eq_mod26_of_dvd_sub {z : Int} {r : Fin 26} (h : (26 : Int) ∣ z - r.val) : r = mod26 z := by
  apply Fin.ext
  have hz := val_mod26 z
  omega

/-- Settles O27: the value is the remainder, and the residue class has one member in [0, 26). -/
theorem remainderIsFloored : Obligations.RemainderIsFloored := by
  have values : mod26 (-59) = 19 ∧ mod26 (-8) = 18 ∧ mod26 26 = 0 ∧ mod26 (-1) = 25 := by decide
  exact ⟨fun z => ⟨val_mod26 z, dvd_sub_mod26 z, fun _ => eq_mod26_of_dvd_sub⟩, values⟩

/-! ### The alphabet (R13) -/

theorem letterIndex_upper {b : Byte} (h : 0x41 ≤ b.toNat ∧ b.toNat ≤ 0x5A) :
    letterIndex b = some ⟨b.toNat - 0x41, by omega⟩ :=
  dif_pos h

theorem letterIndex_lower {b : Byte} (h : 0x61 ≤ b.toNat ∧ b.toNat ≤ 0x7A) :
    letterIndex b = some ⟨b.toNat - 0x61, by omega⟩ := by
  have notUpper : ¬(0x41 ≤ b.toNat ∧ b.toNat ≤ 0x5A) := by omega
  rw [letterIndex, dif_neg notUpper, dif_pos h]

theorem letterIndex_eq_none {b : Byte} (hu : ¬(0x41 ≤ b.toNat ∧ b.toNat ≤ 0x5A))
    (hl : ¬(0x61 ≤ b.toNat ∧ b.toNat ≤ 0x7A)) : letterIndex b = none := by
  rw [letterIndex, dif_neg hu, dif_neg hl]

@[simp] theorem toNat_chr26 (i : Fin 26) : (chr26 i).toNat = 0x41 + i.val := by
  simp only [chr26, BitVec.toNat_ofNat]
  omega

/-- `chr26` answers an upper-case letter, from which its index reads back. -/
@[simp] theorem letterIndex_chr26 (i : Fin 26) : letterIndex (chr26 i) = some i := by
  have upper : 0x41 ≤ (chr26 i).toNat ∧ (chr26 i).toNat ≤ 0x5A := by
    rw [toNat_chr26]
    omega
  rw [letterIndex_upper upper]
  simp

@[simp] theorem strip_nil : strip [] = [] := rfl

theorem strip_cons (b : Byte) (s : List Byte) : strip (b :: s) = (letterIndex b).toList ++ strip s := by
  cases h : letterIndex b <;> simp [strip, h]

/-- Settles O34, range by range of the byte, then `chr26` and the two equations of `strip`. -/
theorem alphabetMapping : Obligations.AlphabetMapping := by
  refine ⟨fun b hlo hhi => ?upper, fun b hlo hhi => ?lower, fun b hb => ?other, fun i => ?letters, strip_nil, strip_cons⟩
  case upper => exact ⟨_, letterIndex_upper ⟨hlo, hhi⟩, rfl⟩
  case lower => exact ⟨_, letterIndex_lower ⟨hlo, hhi⟩, rfl⟩
  case other => exact letterIndex_eq_none (by omega) (by omega)
  case letters => exact ⟨toNat_chr26 i, letterIndex_chr26 i⟩

/-! ### Replacing the pipeline's state (R3)

What a matrix command reads is the same after the replacement, and every operation it is made of commutes with it. -/

section withPipeline

variable (s p : State)

@[simp] theorem withPipeline_self : withPipeline s s = s := rfl
@[simp] theorem withPipeline_cfg : (withPipeline s p).cfg = s.cfg := rfl
@[simp] theorem withPipeline_ki : (withPipeline s p).ki = s.ki := rfl
@[simp] theorem keyMatrix_withPipeline : keyMatrix (withPipeline s p) = keyMatrix s := rfl
@[simp] theorem message_withPipeline : message (withPipeline s p) = message s := rfl

@[simp] theorem complete_withPipeline (c : ErrorCode) :
    complete c (withPipeline s p) = withPipeline (complete c s) p := rfl
@[simp] theorem raiseError_withPipeline (c : ErrorCode) :
    raiseError c (withPipeline s p) = withPipeline (raiseError c s) p := rfl
@[simp] theorem clearOut_withPipeline : clearOut (withPipeline s p) = withPipeline (clearOut s) p := rfl
@[simp] theorem writeOut_withPipeline (r : List Byte) :
    writeOut r (withPipeline s p) = withPipeline (writeOut r s) p := rfl
@[simp] theorem writeDet_withPipeline : writeDet (withPipeline s p) = withPipeline (writeDet s) p := rfl

@[simp] theorem writeInverse_withPipeline : writeInverse (withPipeline s p) = withPipeline (writeInverse s) p := by
  simp only [writeInverse, keyMatrix_withPipeline, writeDet_withPipeline]
  cases minv26 (keyMatrix s) <;> rfl

end withPipeline

/-- A matrix command does not read the pipeline's state: replaced before the command, it is as if replaced after. -/
theorem exec_withPipeline {i : Instr} (hi : isMatrixFamily i = true) {s t : State} (ht : exec i s = .next t) (p : State) :
    exec i (withPipeline s p) = .next (withPipeline t p) := by
  cases i with
  | mdet => cases ht; simp [exec, execMdet]
  | minv => cases ht; simp [exec, execMinv, apply_ite (withPipeline · p)]
  | henc => cases ht; simp [exec, execHenc]
  | hdec => cases ht; simp [exec, execHdec, apply_ite (withPipeline · p)]
  | nop | kdrv | pad | unpd | cbce | cbcd | encr | decr | clr => cases hi

/-! ### Replacing the matrix unit's registers (R3) -/

section withMatrix

variable (s p : State)

@[simp] theorem withMatrix_self : withMatrix s s = s := rfl
@[simp] theorem withMatrix_cfg : (withMatrix s p).cfg = s.cfg := rfl
@[simp] theorem withMatrix_salt : (withMatrix s p).salt = s.salt := rfl
@[simp] theorem withMatrix_iv : (withMatrix s p).iv = s.iv := rfl
@[simp] theorem withMatrix_key : (withMatrix s p).key = s.key := rfl
@[simp] theorem withMatrix_keyv : (withMatrix s p).keyv = s.keyv := rfl
@[simp] theorem message_withMatrix : message (withMatrix s p) = message s := rfl
@[simp] theorem password_withMatrix : password (withMatrix s p) = password s := rfl
@[simp] theorem nextDraw_withMatrix : nextDraw (withMatrix s p) = nextDraw s := rfl
@[simp] theorem deriveKey_withMatrix (salt : Block) : deriveKey (withMatrix s p) salt = deriveKey s salt := rfl
@[simp] theorem lengthUnaligned_withMatrix : lengthUnaligned (withMatrix s p) = lengthUnaligned s := rfl
@[simp] theorem frameMalformed_withMatrix : frameMalformed (withMatrix s p) = frameMalformed s := rfl

@[simp] theorem complete_withMatrix (c : ErrorCode) : complete c (withMatrix s p) = withMatrix (complete c s) p := rfl
@[simp] theorem raiseError_withMatrix (c : ErrorCode) :
    raiseError c (withMatrix s p) = withMatrix (raiseError c s) p := rfl
@[simp] theorem clearOut_withMatrix : clearOut (withMatrix s p) = withMatrix (clearOut s) p := rfl
@[simp] theorem writeOut_withMatrix (r : List Byte) : writeOut r (withMatrix s p) = withMatrix (writeOut r s) p := rfl
@[simp] theorem loadSaltIv_withMatrix (salt iv : Block) :
    loadSaltIv salt iv (withMatrix s p) = withMatrix (loadSaltIv salt iv s) p := rfl
@[simp] theorem loadKey_withMatrix (k : Key) : loadKey k (withMatrix s p) = withMatrix (loadKey k s) p := rfl
@[simp] theorem dropKey_withMatrix : dropKey (withMatrix s p) = withMatrix (dropKey s) p := rfl
@[simp] theorem countDraw_withMatrix : countDraw (withMatrix s p) = withMatrix (countDraw s) p := rfl

end withMatrix

/-- A pipeline command does not read the matrix unit's registers: replaced before the command, they are as if replaced after.
The cases split on what the command judges: the padding for UNPD and DECR, KEYV and the length for CBCE and CBCD. -/
theorem exec_withMatrix {i : Instr} (hi : isPipelineFamily i = true) {s t : State} (ht : exec i s = .next t) (p : State) :
    exec i (withMatrix s p) = .next (withMatrix t p) := by
  cases i with
  | kdrv => cases ht; simp [exec, execKdrv]
  | pad => cases ht; simp [exec, execPad]
  | unpd =>
    cases ht
    cases h : unpad16 (message s) <;> simp [exec, execUnpd, h, apply_ite (withMatrix · p)]
  | cbce =>
    cases ht
    cases hkey : s.keyv <;> cases hlen : lengthUnaligned s <;> simp [exec, execCbce, hkey, hlen]
  | cbcd =>
    cases ht
    cases hkey : s.keyv <;> cases hlen : lengthUnaligned s <;> simp [exec, execCbcd, hkey, hlen]
  | encr => cases ht; simp [exec, execEncr]
  | decr =>
    cases ht
    cases h : unpad16 (openFrame (Config.kdf s.cfg.iter) Config.blockDec (password s) (message s)) <;>
      simp [exec, execDecr, h, apply_ite (withMatrix · p)]
  | nop | mdet | minv | henc | hdec | clr => cases hi

/-- A component that a command does not read it does not write either: the command from `s` is the command from `s` with the
component replaced by its own value. -/
theorem independent_of_replaced {replace : State → State → State} {i : Instr} {s : State} (self : replace s s = s)
    (unread : ∀ t, exec i s = .next t → ∀ p, exec i (replace s p) = .next (replace t p)) (p : State) :
    ∃ t, exec i s = .next t ∧ replace t s = t ∧ exec i (replace s p) = .next (replace t p) := by
  obtain ⟨t, ht⟩ := exec_next i s
  have own : exec i (replace s s) = .next (replace t s) := unread t ht s
  rw [self, ht] at own
  exact ⟨t, ht, (Host.Outcome.next.inj own).symm, unread t ht p⟩

/-- Settles O59: neither family reads the other component's state, so neither writes it. -/
theorem componentsAreIndependent : Obligations.ComponentsAreIndependent :=
  ⟨fun _ s p hi => independent_of_replaced (withPipeline_self s) (fun _ => exec_withPipeline hi) p,
    fun _ s p hi => independent_of_replaced (withMatrix_self s) (fun _ => exec_withMatrix hi) p⟩

end Sys2Proof.Machine
end

section
/-! The state rules of `10_state.md`, first part: the invariant of the reachable states (R29, R34 to R36, R40, R43) is
kept by every operation, hence by every command, every transaction and every step. -/

namespace Sys2Proof.Machine

/-! ### The determinant fits DET (R25) -/

/-- The product of two 32-bit two's complement integers, bounded by the corners of their ranges. -/
theorem toInt_mul_toInt_bounds (a b : Word) :
    -(2 : Int) ^ 62 + 2 ^ 31 ≤ a.toInt * b.toInt ∧ a.toInt * b.toInt ≤ 2 ^ 62 := by
  have range (w : Word) : 0 ≤ w.toInt + 2 ^ 31 ∧ 0 ≤ 2 ^ 31 - 1 - w.toInt := by
    have hlo := BitVec.le_toInt w
    have hhi := BitVec.toInt_lt (x := w)
    omega
  obtain ⟨ha_lo, ha_hi⟩ := range a
  obtain ⟨hb_lo, hb_hi⟩ := range b
  constructor
  · have low := mul_nonneg ha_lo hb_lo
    have high := mul_nonneg ha_hi hb_hi
    linarith
  · have lowHigh := mul_nonneg ha_lo hb_hi
    have highLow := mul_nonneg ha_hi hb_lo
    linarith

/-- The determinant of 32-bit entries fits 64 bits in two's complement (R112). -/
theorem detOf_bounds (k : Mat2 Word) : -(2 : Int) ^ 63 + 2 ^ 31 ≤ detOf k ∧ detOf k ≤ 2 ^ 63 - 2 ^ 31 := by
  have main := toInt_mul_toInt_bounds k.m00 k.m11
  have anti := toInt_mul_toInt_bounds k.m01 k.m10
  unfold detOf
  omega

/-- DET holds the exact determinant. -/
theorem toInt_ofInt_detOf (k : Mat2 Word) : (BitVec.ofInt 64 (detOf k)).toInt = detOf k := by
  have bounds := detOf_bounds k
  apply BitVec.toInt_ofInt_eq_self <;> omega

theorem det2_keyMatrix (s : State) : det2 (keyMatrix s) = detOf s.k := rfl

/-! ### How long an output is

No command's output is longer than its input by more than the 48 bytes that R8 leaves for a frame. -/

theorem length_strip_le (text : List Byte) : (strip text).length ≤ text.length :=
  List.length_filterMap_le ..

theorem length_hillEncode_le (o : Orientation) (m : Mat2 Int) (text : List Byte) :
    (hillEncode o m text).length ≤ text.length + 1 := by
  have hs := length_strip_le text
  have hf : (fill (strip text)).length ≤ (strip text).length + 1 := by
    unfold fill; split <;> simp
  simp only [hillEncode, List.length_map, applyBlocks_even o m _ (length_fill_even _)]
  omega

theorem length_hillDecode_le (o : Orientation) (ki : Mat2 (Fin 26)) {text : List Byte}
    (h : (strip text).length % 2 = 0) : (hillDecode o ki text).length ≤ text.length := by
  simpa only [hillDecode, List.length_map, applyBlocks_even o _ _ h] using length_strip_le text

theorem length_cbcEnc_le (f : Block → Block) (iv : Block) (x : List Byte) : (cbcEnc f iv x).length ≤ x.length := by
  simp only [cbcEnc, length_joinBlocks, length_cbcEncBlocks, length_blocksOf]; omega

theorem length_cbcDec_le (f : Block → Block) (iv : Block) (x : List Byte) : (cbcDec f iv x).length ≤ x.length := by
  simp only [cbcDec, length_joinBlocks, length_cbcDecBlocks, length_blocksOf]; omega

theorem length_unpad16_le {t r : List Byte} (h : unpad16 t = some r) : r.length ≤ t.length := by
  obtain ⟨rfl, -, -⟩ := unpad16_some h
  exact List.length_take_le' ..

theorem length_pad16_le (x : List Byte) : (pad16 x).length ≤ x.length + 16 := by
  rw [length_pad16]; omega

theorem length_sealFrame_le (kdf : List Byte → Block → Key) (enc : Key → Block → Block) (pw : List Byte) (salt iv : Block)
    (x : List Byte) : (sealFrame kdf enc pw salt iv x).length ≤ x.length + 48 := by
  have hc := length_cbcEnc_le (enc (kdf pw salt)) iv (pad16 x)
  have hp := length_pad16_le x
  simp only [sealFrame, List.length_append, Vector.length_toList]
  omega

theorem length_openFrame_le (kdf : List Byte → Block → Key) (dec : Key → Block → Block) (pw f : List Byte) :
    (openFrame kdf dec pw f).length ≤ f.length := by
  have hc := length_cbcDec_le (dec (kdf pw (frameSalt f))) (frameIv f) (frameBody f)
  have hb : (frameBody f).length ≤ f.length := by simp [frameBody]
  exact hc.trans hb

/-! ### Each part of the invariant speaks of a few fields

A state with the same values in those fields meets the part again; `rfl` shows the premise for a record update of other
fields. -/

section congr

variable {s t : State}

theorem derivedOk_congr (h : s.DerivedOk) (same : withMatrix s t = s) : t.DerivedOk := by
  rw [← same] at h
  exact ⟨h.det, h.inv, h.noDet, h.noInv⟩

theorem buffersOk_congr (h : s.BuffersOk)
    (same : { s with
      pbuf := t.pbuf, plen := t.plen, ibuf := t.ibuf, ilen := t.ilen, obuf := t.obuf, olen := t.olen, cfg := t.cfg } = s) :
    t.BuffersOk := by
  rw [← same] at h
  exact ⟨h.pbufForm, h.ibufForm, h.obufForm, h.pbufBelow, h.ibufBelow, h.obufBelow, h.plen, h.ilen, h.olen⟩

theorem statusOk_congr (h : s.StatusOk)
    (same : { s with key := t.key, keyv := t.keyv, done := t.done, err := t.err, ecode := t.ecode } = s) : t.StatusOk := by
  rw [← same] at h
  exact ⟨h.err, h.done, h.key⟩

end congr

/-! ### Every operation keeps the invariant -/

section operations

variable {s : State}

theorem inv_complete (h : s.Inv) (c : ErrorCode) : (complete c s).Inv :=
  ⟨h.cfg, derivedOk_congr h.derived rfl, buffersOk_congr h.buffers rfl, rfl, nofun, h.status.key⟩

theorem inv_raiseError (h : s.Inv) (c : ErrorCode) : (raiseError c s).Inv := inv_complete h c

theorem inv_clearOut (h : s.Inv) : (clearOut s).Inv :=
  ⟨h.cfg, derivedOk_congr h.derived rfl,
    { h.buffers with obufForm := rfl, obufBelow := rfl, olen := Nat.zero_le _ }, statusOk_congr h.status rfl⟩

/-- An output over a cleared one, no more than 48 bytes longer than the input, fits OBUF (R8). -/
theorem inv_writeOut (h : s.Inv) (clear : s.obuf = []) {r : List Byte} (fits : r.length ≤ (message s).length + 48) :
    (writeOut r s).Inv where
  cfg := h.cfg
  derived := derivedOk_congr h.derived rfl
  status := statusOk_congr h.status rfl
  buffers :=
    { h.buffers with
      obufForm := Memory.wf_writeBytes _ _ _ h.buffers.obufForm
      obufBelow := by
        simp only [writeOut_obuf, writeOut_olen, clear]
        exact Memory.below_writeBytes _ _ _ _ (by omega) rfl
      olen := by
        have hcap : s.cfg.ibufCap + 48 ≤ s.cfg.obufCap := by
          have hcfg := h.cfg
          simp only [Config.wf, Config.obufOk, Bool.and_eq_true, decide_eq_true_eq] at hcfg
          exact hcfg.2.1
        have hilen := h.buffers.ilen
        rw [length_message] at fits
        simp only [writeOut_olen, writeOut_cfg]
        omega }

/-- A new DET leaves a valid inverse valid, since it is the determinant that inverse was computed from. -/
theorem inv_writeDet (h : s.Inv) : (writeDet s).Inv where
  cfg := h.cfg
  buffers := buffersOk_congr h.buffers rfl
  status := statusOk_congr h.status rfl
  derived :=
    { det := fun _ => ⟨toInt_ofInt_detOf s.k, rfl⟩
      inv := fun hkiv => by
        obtain ⟨-, hinv⟩ := h.derived.inv hkiv
        obtain ⟨-, hdetm, -, -⟩ := minv26_some hinv
        exact ⟨rfl, hinv.trans (by rw [hdetm]; rfl)⟩
      noDet := nofun
      noInv := h.derived.noInv }

theorem inv_writeInverse (h : s.Inv) : (writeInverse s).Inv := by
  have hdet := inv_writeDet h
  cases hvalid : validKey (keyMatrix s) with
  | false =>
    rw [writeInverse_invalid s hvalid]
    exact ⟨h.cfg, ⟨hdet.derived.det, nofun, nofun, fun _ => ⟨rfl, rfl⟩⟩, buffersOk_congr hdet.buffers rfl,
      statusOk_congr hdet.status rfl⟩
  | true =>
    obtain ⟨-, hinv⟩ := writeInverse_valid s hvalid
    rw [writeInverse_detm] at hinv
    rw [writeInverse_valid_eq s hvalid]
    exact ⟨h.cfg, ⟨hdet.derived.det, fun _ => ⟨rfl, hinv⟩, nofun, nofun⟩, buffersOk_congr hdet.buffers rfl,
      statusOk_congr hdet.status rfl⟩

theorem inv_loadSaltIv (h : s.Inv) (salt iv : Block) : (loadSaltIv salt iv s).Inv :=
  ⟨h.cfg, derivedOk_congr h.derived rfl, buffersOk_congr h.buffers rfl, statusOk_congr h.status rfl⟩

theorem inv_loadKey (h : s.Inv) (k : Key) : (loadKey k s).Inv :=
  ⟨h.cfg, derivedOk_congr h.derived rfl, buffersOk_congr h.buffers rfl, h.status.err, h.status.done, nofun⟩

theorem inv_dropKey (h : s.Inv) : (dropKey s).Inv :=
  ⟨h.cfg, derivedOk_congr h.derived rfl, buffersOk_congr h.buffers rfl, h.status.err, h.status.done, fun _ => rfl⟩

theorem inv_clearBuffers (h : s.Inv) : (clearBuffers s).Inv :=
  ⟨h.cfg, derivedOk_congr h.derived rfl,
    ⟨rfl, rfl, rfl, rfl, rfl, rfl, Nat.zero_le _, Nat.zero_le _, Nat.zero_le _⟩, statusOk_congr h.status rfl⟩

theorem inv_countDraw (h : s.Inv) : (countDraw s).Inv :=
  ⟨h.cfg, derivedOk_congr h.derived rfl, buffersOk_congr h.buffers rfl, statusOk_congr h.status rfl⟩

theorem inv_answer (h : s.Inv) (r : Reply) : (answer r s).Inv :=
  ⟨h.cfg, derivedOk_congr h.derived rfl, buffersOk_congr h.buffers rfl, statusOk_congr h.status rfl⟩

/-- The event a step takes from the inbox is no state of the block. -/
theorem inv_setInbox (h : s.Inv) (rest : List Event) : ({ s with inbox := rest } : State).Inv :=
  ⟨h.cfg, derivedOk_congr h.derived rfl, buffersOk_congr h.buffers rfl, statusOk_congr h.status rfl⟩

/-- A reset gives a state of the invariant whatever it finds, as long as the parameters meet R8. -/
theorem inv_resetBlock (hcfg : s.cfg.wf = true) : (resetBlock s).Inv where
  cfg := hcfg
  derived := ⟨nofun, nofun, fun _ => ⟨rfl, rfl, rfl⟩, fun _ => ⟨rfl, rfl⟩⟩
  buffers := ⟨rfl, rfl, rfl, rfl, rfl, rfl, Nat.zero_le _, Nat.zero_le _, Nat.zero_le _⟩
  status := ⟨rfl, fun _ => rfl, fun _ => rfl⟩

/-- Any new K is met by derived registers that are all zero (R24). -/
theorem inv_clearDerived_setK (h : s.Inv) (k : Mat2 Word) : ({ clearDerived s with k := k } : State).Inv :=
  ⟨h.cfg, ⟨nofun, nofun, fun _ => ⟨rfl, rfl, rfl⟩, fun _ => ⟨rfl, rfl⟩⟩, buffersOk_congr h.buffers rfl,
    statusOk_congr h.status rfl⟩

end operations

/-! ### Every command, transaction and step keeps the invariant -/

theorem inv_busWrite32 {a : Addr} {v : Word} {s t : State} (h : s.Inv) (ht : busWrite32 a v s = some t) : t.Inv := by
  obtain ⟨k, rfl⟩ | ⟨n, hn, rfl⟩ | ⟨n, hn, rfl⟩ | ⟨e, rfl⟩ | rfl := busWrite32_some ht
  · exact inv_clearDerived_setK h k
  · exact ⟨h.cfg, derivedOk_congr h.derived rfl, { h.buffers with ilen := hn }, statusOk_congr h.status rfl⟩
  · exact ⟨h.cfg, derivedOk_congr h.derived rfl, { h.buffers with plen := hn }, statusOk_congr h.status rfl⟩
  · exact ⟨h.cfg, derivedOk_congr h.derived rfl, buffersOk_congr h.buffers rfl, statusOk_congr h.status rfl⟩
  · exact h

theorem inv_busWrite8 {a : Addr} {v : Byte} {s t : State} (h : s.Inv) (ht : busWrite8 a v s = some t) : t.Inv := by
  obtain ⟨x, rfl⟩ | ⟨x, rfl⟩ | ⟨o, ho, rfl⟩ | ⟨o, ho, rfl⟩ | rfl := busWrite8_some ht
  · exact inv_loadSaltIv h x s.iv
  · exact inv_loadSaltIv h s.salt x
  · have hform := Memory.wf_write s.pbuf o v h.buffers.pbufForm
    have hbelow := Memory.below_write _ s.pbuf o v ho h.buffers.pbufBelow
    exact ⟨h.cfg, derivedOk_congr h.derived rfl, { h.buffers with pbufForm := hform, pbufBelow := hbelow },
      statusOk_congr h.status rfl⟩
  · have hform := Memory.wf_write s.ibuf o v h.buffers.ibufForm
    have hbelow := Memory.below_write _ s.ibuf o v ho h.buffers.ibufBelow
    exact ⟨h.cfg, derivedOk_congr h.derived rfl, { h.buffers with ibufForm := hform, ibufBelow := hbelow },
      statusOk_congr h.status rfl⟩
  · exact h

/-- Every command keeps the invariant: each is made of operations that keep it, and its output fits. -/
theorem inv_exec {i : Instr} {s t : State} (h : s.Inv) (ht : exec i s = .next t) : t.Inv := by
  have hclear := inv_clearOut h
  cases i <;> cases ht
  case nop => exact inv_complete h _
  case mdet => exact inv_complete (inv_writeDet h) _
  case minv =>
    split
    · exact inv_complete (inv_writeInverse h) _
    · exact inv_raiseError (inv_writeInverse h) _
  case henc => exact inv_complete (inv_writeOut hclear rfl ((length_hillEncode_le ..).trans (by simp))) _
  case hdec =>
    have hinv := inv_writeInverse hclear
    split
    · exact inv_raiseError hinv _
    · split
      · exact inv_raiseError hinv _
      · rename_i heven
        have fits := length_hillDecode_le s.cfg.orient (writeInverse (clearOut s)).ki (not_not.mp heven)
        exact inv_complete (inv_writeOut hinv (by simp) (fits.trans (by simp))) _
  case kdrv => exact inv_complete (inv_loadKey h _) _
  case pad => exact inv_complete (inv_writeOut hclear rfl ((length_pad16_le _).trans (by simp))) _
  case unpd =>
    split
    · exact inv_raiseError hclear _
    · split
      · exact inv_raiseError hclear _
      · rename_i r hr
        exact inv_complete (inv_writeOut hclear rfl ((length_unpad16_le hr).trans (by simp))) _
  case cbce =>
    split
    · exact inv_raiseError hclear _
    · split
      · exact inv_raiseError hclear _
      · exact inv_complete (inv_writeOut hclear rfl ((length_cbcEnc_le ..).trans (by simp))) _
  case cbcd =>
    split
    · exact inv_raiseError hclear _
    · split
      · exact inv_raiseError hclear _
      · exact inv_complete (inv_writeOut hclear rfl ((length_cbcDec_le ..).trans (by simp))) _
  case encr =>
    have hloaded := inv_loadSaltIv (inv_countDraw hclear) (drawSalt (nextDraw s)) (drawIv (nextDraw s))
    exact inv_complete (inv_dropKey (inv_writeOut hloaded rfl (length_sealFrame_le ..))) _
  case decr =>
    split
    · exact inv_raiseError hclear _
    · have hloaded := inv_dropKey (inv_loadSaltIv hclear (frameSalt (message s)) (frameIv (message s)))
      split
      · exact inv_raiseError hloaded _
      · rename_i r hr
        have fits := (length_unpad16_le hr).trans (length_openFrame_le ..)
        exact inv_complete (inv_writeOut hloaded rfl (fits.trans (by simp))) _
  case clr => exact inv_complete (inv_clearBuffers (inv_loadSaltIv (inv_dropKey h) _ _)) _

theorem inv_runWord {w : Word} {s t : State} (h : s.Inv) (ht : runWord w s = .next t) : t.Inv := by
  obtain ⟨i, -, hrun⟩ | ⟨-, hrun⟩ := runWord_cases w s <;> rw [hrun] at ht
  · exact inv_exec h ht
  · cases ht
    exact inv_complete h _

theorem inv_runTxn {tx : Txn} {s t : State} (h : s.Inv) (ht : runTxn tx s = .next t) : t.Inv := by
  obtain ⟨w, u, -, hu, hrun⟩ | ⟨a, v, u, -, -, hu, hrun⟩ | ⟨a, v, u, -, hu, hrun⟩ | ⟨-, r, hrun⟩ := runTxn_cases tx s <;>
    obtain rfl := Host.Outcome.next.inj (hrun.symm.trans ht)
  · exact inv_answer (inv_runWord h hu) _
  · exact inv_answer (inv_busWrite32 h hu) _
  · exact inv_answer (inv_busWrite8 h hu) _
  · exact inv_answer h r

/-- Settles O14: a step does nothing, resets, or performs one transaction, and each keeps the invariant. -/
theorem stepKeepsInvariant : Obligations.StepKeepsInvariant := by
  intro s t h ht
  obtain ⟨-, hstep⟩ | ⟨rest, -, hstep⟩ | ⟨tx, rest, -, hstep⟩ := step_cases s <;> rw [hstep] at ht
  · cases ht
    exact h
  · cases ht
    exact inv_resetBlock h.cfg
  · exact inv_runTxn (inv_setInbox h rest) ht

/-- Settles O13: the reset state is what a reset makes of itself, and the default parameters meet R8. -/
theorem resetMeetsInvariant : Obligations.ResetMeetsInvariant :=
  inv_resetBlock (s := State.reset) (by decide)

end Sys2Proof.Machine
end

section
/-! The state rules of `10_state.md`, second part: what the registers mean and how the bus reaches them (R24, R29, R32, R33,
R46). -/

namespace Sys2Proof.Machine

/-! ### The derived registers (R29) -/

theorem emod_dot_emod (a x b y : Int) : (a * (x % 26) + b * (y % 26)) % 26 = (a * x + b * y) % 26 :=
  ((Int.mod_modEq x 26).mul_left a).add ((Int.mod_modEq y 26).mul_left b)

/-- What `minv26` answers is a right inverse modulo 26: K times its adjugate is the determinant on the diagonal and 0
beside it, and the determinant times its inverse is 1. -/
theorem mul_minv26 {m : Mat2 Int} {dm di : Fin 26} {q : Mat2 (Fin 26)} (h : minv26 m = some (dm, di, q)) :
    (m.m00 * q.m00.val + m.m01 * q.m10.val) % 26 = 1 ∧ (m.m00 * q.m01.val + m.m01 * q.m11.val) % 26 = 0 ∧
      (m.m10 * q.m00.val + m.m11 * q.m10.val) % 26 = 0 ∧ (m.m10 * q.m01.val + m.m11 * q.m11.val) % 26 = 1 := by
  obtain ⟨hvalid, rfl, hdi, rfl⟩ := minv26_some h
  obtain ⟨x, hx, hone⟩ := inv26_of_unit _ hvalid
  obtain rfl : di = x := Option.some.inj (hdi.symm.trans hx)
  have diagonal : residue di * det2 m % 26 = 1 := by
    have hone : ((mod26 (det2 m)).val : Int) * di.val % 26 = 1 := by exact_mod_cast hone
    have reduce : ((mod26 (det2 m)).val : Int) * di.val ≡ det2 m * di.val [ZMOD 26] := by
      rw [val_mod26]
      exact (Int.mod_modEq _ 26).mul_right _
    rw [mul_comm]
    exact Eq.trans reduce.symm hone
  simp only [Mat2.map, adj2, val_mod26, emod_dot_emod]
  refine ⟨?_, ?_, ?_, ?_⟩
  · rw [← diagonal, det2]; ring_nf
  · have : m.m00 * (residue di * -m.m01) + m.m01 * (residue di * m.m00) = 0 := by ring
    rw [this]; rfl
  · have : m.m10 * (residue di * m.m11) + m.m11 * (residue di * -m.m10) = 0 := by ring
    rw [this]; rfl
  · rw [← diagonal, det2]; ring_nf

/-- Settles O15: the invariant's clauses with `minv26`'s three answers spelled out. -/
theorem invariantMeansDerivedRegistersAreCurrent : Obligations.InvariantMeansDerivedRegistersAreCurrent := by
  intro s h
  have hd := h.derived
  refine ⟨fun hdetv => ?det, fun hkiv => ?inv, fun hdetv => ?noDet, hd.noInv⟩
  case det =>
    obtain ⟨hdet, hdetm⟩ := hd.det hdetv
    exact ⟨hdet, by rw [hdetm, val_mod26, det2_keyMatrix]⟩
  case inv =>
    obtain ⟨hdetv, hinv⟩ := hd.inv hkiv
    obtain ⟨hvalid, hdetm, hdinv, -⟩ := minv26_some hinv
    refine ⟨hdetv, ?_, hdinv, mul_minv26 hinv⟩
    rw [hdetm]
    exact eq_of_beq hvalid
  case noDet =>
    obtain ⟨hdet, hdetm, hkiv⟩ := hd.noDet hdetv
    obtain ⟨hdinv, hki⟩ := hd.noInv hkiv
    exact ⟨hdet, hdetm, hdinv, hki, hkiv⟩

/-! ### The register map (R46) -/

@[simp] theorem regAt_regAddr (r : Reg) : regAt (Asm.regAddr r) = some r := by cases r <;> rfl

theorem eq_regAddr_of_regAt {a : Addr} {r : Reg} (h : regAt a = some r) : a = Asm.regAddr r := by
  unfold regAt at h
  split at h <;> cases h <;> exact BitVec.eq_of_toNat_eq ‹_›

theorem regAddr_aligned (r : Reg) : (Asm.regAddr r).toNat % 4 = 0 ∧ (Asm.regAddr r).toNat < 0x5C := by
  cases r <;> decide

/-- Every aligned offset below 0x5C reaches a register. -/
theorem regAt_aligned_ne_none (n : Fin 23) : regAt (BitVec.ofNat 16 (4 * n.val)) ≠ none := by
  revert n; decide

theorem regAt_eq_none_iff (a : Addr) : regAt a = none ↔ a.toNat % 4 ≠ 0 ∨ 0x5C ≤ a.toNat := by
  constructor
  · intro hnone
    by_contra hin
    obtain ⟨hmod, hlt⟩ : a.toNat % 4 = 0 ∧ a.toNat < 0x5C := by omega
    have ha : BitVec.ofNat 16 (4 * (a.toNat / 4)) = a := by
      rw [Nat.mul_div_cancel' (Nat.dvd_of_mod_eq_zero hmod), BitVec.ofNat_toNat, BitVec.setWidth_eq]
    exact regAt_aligned_ne_none ⟨a.toNat / 4, by omega⟩ (by rw [ha]; exact hnone)
  · intro hout
    by_contra hsome
    obtain ⟨r, hr⟩ := Option.ne_none_iff_exists'.mp hsome
    have hin := regAddr_aligned r
    rw [← eq_regAddr_of_regAt hr] at hin
    omega

/-- Settles O16: the three lemmas about `regAt` above. -/
theorem registerMapIsExact : Obligations.RegisterMapIsExact :=
  ⟨regAt_regAddr, fun _ _ => eq_regAddr_of_regAt, regAt_eq_none_iff⟩

@[simp] theorem busRead32_regAddr (r : Reg) (s : State) : busRead32 (Asm.regAddr r) s = some (readReg r s) := by
  simp [busRead32]

/-- A word write at the offset of a register other than CMD is that register's write. -/
theorem runTxn_write32_regAddr {r : Reg} (hr : r ≠ .cmd) (v : Word) (s : State) :
    runTxn (.write32 (Asm.regAddr r) v) s = .next (answerWrite s (writeReg r v s)) := by
  have ha : Asm.regAddr r ≠ cmdAddr := by
    revert hr; cases r <;> decide
  simp [runTxn, ha, busWrite32]

/-! ### K writes and read-only registers (R24) -/

/-- The registers whose writes are ignored. -/
def readOnlyRegs : List Reg :=
  [.id, .status, .detLo, .detHi, .detm, .dinv, .ki00, .ki01, .ki10, .ki11, .olen, .iter, .icap, .ocap, .pcap]

theorem writeReg_readOnly (v : Word) (s : State) : ∀ r ∈ readOnlyRegs, writeReg r v s = some s := by
  simp [readOnlyRegs, writeReg]

/-- Settles O20: each listed address is that of a register, whose write is known. -/
theorem keyWritesClearDerivedReadOnlyIgnored : Obligations.KeyWritesClearDerivedReadOnlyIgnored := by
  intro s v
  constructor
  · intro a k hmem
    simp only [List.mem_cons, List.not_mem_nil, or_false, Prod.mk.injEq] at hmem
    obtain ⟨rfl, rfl⟩ | ⟨rfl, rfl⟩ | ⟨rfl, rfl⟩ | ⟨rfl, rfl⟩ := hmem
    · exact runTxn_write32_regAddr (r := .k00) nofun v s
    · exact runTxn_write32_regAddr (r := .k01) nofun v s
    · exact runTxn_write32_regAddr (r := .k10) nofun v s
    · exact runTxn_write32_regAddr (r := .k11) nofun v s
  · intro a hmem
    obtain ⟨r, hr, rfl⟩ : ∃ r ∈ readOnlyRegs, Asm.regAddr r = a := List.mem_map.mp hmem
    have hcmd : r ≠ .cmd := by rintro rfl; exact absurd hr (by decide)
    rw [runTxn_write32_regAddr hcmd, writeReg_readOnly v s r hr]
    rfl

/-! ### STATUS (R32) -/

/-- STATUS bit by bit. -/
theorem getLsbD_statusWord (s : State) (j : Nat) :
    (statusWord s).getLsbD j =
      if j = 0 then s.done else if j = 1 then s.err else if j < 4 then false
      else if j < 8 then (errorNumber s.ecode).getLsbD (j - 4)
      else if j = 8 then s.detv else if j = 9 then s.kiv else if j = 10 then s.keyv else false := by
  unfold statusWord
  iterate 7 rw [BitVec.getLsbD_append]
  by_cases hj : j < 11
  · interval_cases j <;> simp
  · simp (disch := omega) only [if_neg, BitVec.getLsbD_zero]

/-- Settles O8: each field's bits are those of the whole word. -/
theorem statusWordLayout : Obligations.StatusWordLayout := by
  refine ⟨⟨rfl, rfl, rfl, rfl, rfl, rfl⟩, fun s => ⟨statusWord s, busRead32_regAddr .status s, ?_⟩⟩
  have ecode : (statusWord s).extractLsb' 4 4 = errorNumber s.ecode := by
    apply BitVec.eq_of_getLsbD_eq
    intro i hi
    rw [BitVec.getLsbD_extractLsb', getLsbD_statusWord, Nat.add_sub_cancel_left]
    simp (disch := omega) [if_neg, if_pos, hi]
  simp only [getLsbD_statusWord]
  refine ⟨rfl, rfl, rfl, rfl, ecode, rfl, rfl, rfl, fun j hj => ?_⟩
  simp (disch := omega) only [if_neg]

/-! ### ESTK (R33) -/

theorem getLsbD_stickyWord_zero (s : State) : (stickyWord s).getLsbD 0 = false := by
  unfold stickyWord
  rw [BitVec.getLsbD_append]
  rfl

theorem getLsbD_stickyWord_succ (s : State) (j : Nat) : (stickyWord s).getLsbD (j + 1) = s.estk.getLsbD j := by
  unfold stickyWord
  rw [BitVec.getLsbD_append, BitVec.getLsbD_append]
  by_cases hj : j < 5
  · simp [hj]
  · simp [hj, BitVec.getLsbD_of_ge s.estk j (Nat.le_of_not_lt hj)]

theorem getLsbD_stickyClear (e : BitVec 5) (w : Word) {j : Nat} (hj : j < 5) :
    (stickyClear e w).getLsbD j = (e.getLsbD j && !w.getLsbD (j + 1)) := by
  simp [stickyClear, hj, Nat.add_comm]

/-- A code sets its own bit of ESTK; code 0 has none. -/
theorem getLsbD_stickyBit (c : ErrorCode) :
    ∀ j, j < 5 → (stickyBit c).getLsbD j = decide ((errorNumber c).toNat = j + 1) := by
  cases c <;> decide

end Sys2Proof.Machine
end

section
/-! The state rules of `10_state.md`, third part: what a command leaves alone (R23, R33, R40 to R42), the secrets on the bus
(R40, R41), and reset (R45). -/

namespace Sys2Proof.Machine

/-! ### What a command leaves alone

Every command ends in one `Complete(c)`; before it, it has written none of the fields below (R23, R40 to R42, R91, R216). -/

/-- The fields of `u` that command `i` has left as they are in `s` when it comes to complete. -/
structure CommandFrame (i : Instr) (s u : State) : Prop where
  k : u.k = s.k
  done : u.done = s.done
  err : u.err = s.err
  ecode : u.ecode = s.ecode
  estk : u.estk = s.estk
  cfg : u.cfg = s.cfg
  inbox : u.inbox = s.inbox
  replies : u.replies = s.replies
  inputs : i ≠ .clr → u.ibuf = s.ibuf ∧ u.pbuf = s.pbuf ∧ u.ilen = s.ilen ∧ u.plen = s.plen
  key : i ∉ [.kdrv, .encr, .decr, .clr] → u.keyv = s.keyv ∧ u.key = s.key

/-- Every command ends in a completion of a state within its frame. The cases split on what the command judges. -/
theorem exec_completes (i : Instr) (s : State) : ∃ c u, exec i s = .next (complete c u) ∧ CommandFrame i s u := by
  cases i
  case nop | mdet | henc | kdrv | pad | encr | clr => exact ⟨_, _, rfl, by constructor <;> simp⟩
  case minv =>
    simp only [exec, execMinv]
    split <;> exact ⟨_, _, rfl, by constructor <;> simp⟩
  case hdec | unpd | cbce | cbcd | decr =>
    simp only [exec, execHdec, execUnpd, execCbce, execCbcd, execDecr]
    split
    · exact ⟨_, _, rfl, by constructor <;> simp⟩
    · split <;> exact ⟨_, _, rfl, by constructor <;> simp⟩

/-- A word written to CMD, a command or not, completes a state with the ESTK it found. -/
theorem runWord_completes (w : Word) (s : State) :
    ∃ c u, runWord w s = .next (complete c u) ∧ u.estk = s.estk := by
  obtain ⟨i, -, hrun⟩ | ⟨-, hrun⟩ := runWord_cases w s
  · obtain ⟨c, u, hexec, frame⟩ := exec_completes i s
    exact ⟨c, u, hrun.trans hexec, frame.estk⟩
  · exact ⟨.illegalCommand, s, hrun, rfl⟩

/-! ### ESTK on the bus and in a command (R33) -/

/-- Settles O9: the word's bits, the register's write, and the one completion of every word. -/
theorem stickyRecordKeepsErrors : Obligations.StickyRecordKeepsErrors := by
  intro s
  refine ⟨?read, fun w => ?clear, rfl, fun w t ht j hj => ?set⟩
  case read =>
    refine ⟨stickyWord s, busRead32_regAddr .estk s, getLsbD_stickyWord_zero s, fun j hj => ?_,
      fun j _ => getLsbD_stickyWord_succ s j⟩
    obtain ⟨n, rfl⟩ : ∃ n, j = n + 1 := ⟨j - 1, by omega⟩
    rw [getLsbD_stickyWord_succ, BitVec.getLsbD_of_ge _ _ (by omega)]
  case clear =>
    exact ⟨stickyClear s.estk w, runTxn_write32_regAddr (r := .estk) nofun w s, fun _ hj => getLsbD_stickyClear _ w hj⟩
  case set =>
    obtain ⟨c, u, hrun, hestk⟩ := runWord_completes w s
    obtain rfl := Host.Outcome.next.inj (hrun.symm.trans ht)
    rw [complete_estk, BitVec.getLsbD_or, hestk, getLsbD_stickyBit c j hj, complete_ecode]

/-! ### The derived key (R40, R188) -/

theorem frameMalformed_iff (s : State) : frameMalformed s = true ↔ s.ilen ≤ 32 ∨ (s.ilen - 32) % 16 ≠ 0 := by
  simp [frameMalformed]

theorem exec_decr_malformed {s : State} (h : frameMalformed s = true) :
    exec .decr s = .next (raiseError .malformedInput (clearOut s)) := by
  simp [exec, execDecr, h]

/-- A DECR that passes its length check drops the key, whatever it says of the padding. -/
theorem exec_decr_wellFormed_key {s t : State} (h : frameMalformed s = false) (ht : exec .decr s = .next t) :
    t.keyv = false ∧ t.key = zeroKey := by
  simp only [exec, execDecr, h, Bool.false_eq_true, if_false] at ht
  split at ht <;> cases ht <;> exact ⟨rfl, rfl⟩

/-- A command that does not concern the key keeps it. -/
theorem exec_key_of_notMem {i : Instr} {s t : State} (hi : i ∉ [.kdrv, .encr, .decr, .clr]) (ht : exec i s = .next t) :
    t.keyv = s.keyv ∧ t.key = s.key := by
  obtain ⟨c, u, hexec, frame⟩ := exec_completes i s
  obtain rfl := Host.Outcome.next.inj (hexec.symm.trans ht)
  exact frame.key hi

/-- Settles O58: KDRV, ENCR and CLR write the key, DECR by its length check, and the others are within the frame. -/
theorem keyLivesOnlyAfterKdrv : Obligations.KeyLivesOnlyAfterKdrv := by
  intro i s
  obtain ⟨t, ht⟩ := exec_next i s
  refine ⟨t, ht, ?set, ?destroy, ?keep⟩
  case set =>
    rintro rfl
    cases ht
    rfl
  case destroy =>
    rintro (rfl | rfl | ⟨rfl, hlong, hwhole⟩)
    · cases ht
      exact ⟨rfl, rfl⟩
    · cases ht
      exact ⟨rfl, rfl⟩
    · have passed : frameMalformed s = false := by
        rw [Bool.eq_false_iff, ne_eq, frameMalformed_iff]
        omega
      exact exec_decr_wellFormed_key passed ht
  case keep =>
    intro hkdrv hencr hclr hdecr
    by_cases hi : i = .decr
    · subst hi
      rw [exec_decr_malformed ((frameMalformed_iff s).mpr (hdecr rfl))] at ht
      cases ht
      exact ⟨rfl, rfl⟩
    · exact exec_key_of_notMem (by simp [hkdrv, hencr, hclr, hi]) ht

/-! ### Bytes beyond the lengths (R41, R42)

The same plan as for R3: what a command reads of the two input buffers is the same after their replacement, and every
operation it is made of commutes with it. -/

/-- The state with other contents of IBUF and PBUF. -/
def withInputs (s : State) (ibuf pbuf : Memory) : State := { s with ibuf := ibuf, pbuf := pbuf }

section withInputs

variable (s : State) (ibuf pbuf : Memory)

@[simp] theorem withInputs_self : withInputs s s.ibuf s.pbuf = s := rfl
@[simp] theorem withInputs_ibuf : (withInputs s ibuf pbuf).ibuf = ibuf := rfl
@[simp] theorem withInputs_pbuf : (withInputs s ibuf pbuf).pbuf = pbuf := rfl
@[simp] theorem withInputs_cfg : (withInputs s ibuf pbuf).cfg = s.cfg := rfl
@[simp] theorem withInputs_ki : (withInputs s ibuf pbuf).ki = s.ki := rfl
@[simp] theorem withInputs_salt : (withInputs s ibuf pbuf).salt = s.salt := rfl
@[simp] theorem withInputs_iv : (withInputs s ibuf pbuf).iv = s.iv := rfl
@[simp] theorem withInputs_key : (withInputs s ibuf pbuf).key = s.key := rfl
@[simp] theorem withInputs_keyv : (withInputs s ibuf pbuf).keyv = s.keyv := rfl
@[simp] theorem keyMatrix_withInputs : keyMatrix (withInputs s ibuf pbuf) = keyMatrix s := rfl
@[simp] theorem nextDraw_withInputs : nextDraw (withInputs s ibuf pbuf) = nextDraw s := rfl
@[simp] theorem lengthUnaligned_withInputs : lengthUnaligned (withInputs s ibuf pbuf) = lengthUnaligned s := rfl
@[simp] theorem frameMalformed_withInputs : frameMalformed (withInputs s ibuf pbuf) = frameMalformed s := rfl

@[simp] theorem complete_withInputs (c : ErrorCode) :
    complete c (withInputs s ibuf pbuf) = withInputs (complete c s) ibuf pbuf := rfl
@[simp] theorem raiseError_withInputs (c : ErrorCode) :
    raiseError c (withInputs s ibuf pbuf) = withInputs (raiseError c s) ibuf pbuf := rfl
@[simp] theorem clearOut_withInputs : clearOut (withInputs s ibuf pbuf) = withInputs (clearOut s) ibuf pbuf := rfl
@[simp] theorem writeOut_withInputs (r : List Byte) :
    writeOut r (withInputs s ibuf pbuf) = withInputs (writeOut r s) ibuf pbuf := rfl
@[simp] theorem writeDet_withInputs : writeDet (withInputs s ibuf pbuf) = withInputs (writeDet s) ibuf pbuf := rfl
@[simp] theorem loadSaltIv_withInputs (salt iv : Block) :
    loadSaltIv salt iv (withInputs s ibuf pbuf) = withInputs (loadSaltIv salt iv s) ibuf pbuf := rfl
@[simp] theorem loadKey_withInputs (k : Key) :
    loadKey k (withInputs s ibuf pbuf) = withInputs (loadKey k s) ibuf pbuf := rfl
@[simp] theorem dropKey_withInputs : dropKey (withInputs s ibuf pbuf) = withInputs (dropKey s) ibuf pbuf := rfl
@[simp] theorem countDraw_withInputs : countDraw (withInputs s ibuf pbuf) = withInputs (countDraw s) ibuf pbuf := rfl

@[simp] theorem writeInverse_withInputs :
    writeInverse (withInputs s ibuf pbuf) = withInputs (writeInverse s) ibuf pbuf := by
  simp only [writeInverse, keyMatrix_withInputs, writeDet_withInputs]
  cases minv26 (keyMatrix s) <;> rfl

variable {s ibuf pbuf}

/-- The input message is made of the bytes below ILEN. -/
theorem message_withInputs (below : ∀ o, o < s.ilen → Memory.read ibuf o = Memory.read s.ibuf o) :
    message (withInputs s ibuf pbuf) = message s :=
  Memory.readBytes_congr _ _ _ _ fun o ho => by simpa using below o ho

/-- The password is made of the bytes below PLEN. -/
theorem password_withInputs (below : ∀ o, o < s.plen → Memory.read pbuf o = Memory.read s.pbuf o) :
    password (withInputs s ibuf pbuf) = password s :=
  Memory.readBytes_congr _ _ _ _ fun o ho => by simpa using below o ho

end withInputs

/-- A command other than CLR reads of the two buffers only the message and the password: where those are the same, it makes
no difference whether the buffers are replaced before the command or after. -/
theorem exec_withInputs {i : Instr} (hi : i ≠ .clr) {s t : State} (ht : exec i s = .next t) {ibuf pbuf : Memory}
    (hmsg : message (withInputs s ibuf pbuf) = message s) (hpw : password (withInputs s ibuf pbuf) = password s) :
    exec i (withInputs s ibuf pbuf) = .next (withInputs t ibuf pbuf) := by
  cases i <;> cases ht
  case nop => simp [exec, execNop]
  case mdet => simp [exec, execMdet]
  case minv => simp [exec, execMinv, apply_ite (withInputs · ibuf pbuf)]
  case henc => simp [exec, execHenc, hmsg]
  case hdec => simp [exec, execHdec, hmsg, apply_ite (withInputs · ibuf pbuf)]
  case kdrv => simp [exec, execKdrv, deriveKey, hpw]
  case pad => simp [exec, execPad, hmsg]
  case unpd => cases h : unpad16 (message s) <;> simp [exec, execUnpd, hmsg, h, apply_ite (withInputs · ibuf pbuf)]
  case cbce => simp [exec, execCbce, hmsg, apply_ite (withInputs · ibuf pbuf)]
  case cbcd => simp [exec, execCbcd, hmsg, apply_ite (withInputs · ibuf pbuf)]
  case encr => simp [exec, execEncr, hmsg, hpw]
  case decr =>
    cases h : unpad16 (openFrame (Config.kdf s.cfg.iter) Config.blockDec (password s) (message s)) <;>
      simp [exec, execDecr, hmsg, hpw, h, apply_ite (withInputs · ibuf pbuf)]
  case clr => cases hi rfl

/-- CLR overwrites both buffers. -/
theorem exec_clr_withInputs (s : State) (ibuf pbuf : Memory) : exec .clr (withInputs s ibuf pbuf) = exec .clr s := rfl

/-- Settles O60: CLR overwrites both buffers, and any other command reads the message and the password only. -/
theorem bytesBeyondLengthsAreIgnored : Obligations.BytesBeyondLengthsAreIgnored := by
  intro i s ibuf pbuf hibuf hpbuf
  obtain ⟨c, u, hexec, frame⟩ := exec_completes i s
  refine ⟨complete c u, hexec, ?_, frame.inputs, frame.k⟩
  split
  · rename_i hclr
    subst hclr
    exact (exec_clr_withInputs s ibuf pbuf).trans hexec
  · rename_i hi
    exact exec_withInputs hi hexec (message_withInputs hibuf) (password_withInputs hpbuf)

/-! ### The secrets on the bus (R40, R41) -/

/-- The state with other secrets: the contents of PBUF, and KEY. -/
def withSecrets (s : State) (pbuf : Memory) (key : Key) : State := { s with pbuf := pbuf, key := key }

theorem eq_withSecrets_of_publicEq {s t : State} (h : s.publicEq t) : t = withSecrets s t.pbuf t.key := by
  have restored := congrArg (withSecrets · t.pbuf t.key) h.symm
  exact restored

/-- The replies are public. -/
theorem replies_eq_of_publicEq {s t : State} (h : s.publicEq t) : s.replies = t.replies := by
  have shown := congrArg State.replies h
  exact shown

section withSecrets

variable (s : State) (pbuf : Memory) (key : Key)

@[simp] theorem readReg_withSecrets (r : Reg) : readReg r (withSecrets s pbuf key) = readReg r s := by
  cases r <;> rfl

@[simp] theorem busRead32_withSecrets (a : Addr) : busRead32 a (withSecrets s pbuf key) = busRead32 a s := by
  simp [busRead32]

/-- A byte read does not show PBUF. -/
@[simp] theorem busRead8_withSecrets (a : Addr) : busRead8 a (withSecrets s pbuf key) = busRead8 a s := by
  unfold busRead8
  apply Option.map_congr
  intro l _
  cases l <;> rfl

theorem writeReg_withSecrets (r : Reg) (v : Word) :
    writeReg r v (withSecrets s pbuf key) = (writeReg r v s).map (withSecrets · pbuf key) := by
  cases r
  case ilen | plen =>
    simp only [writeReg, apply_ite (Option.map _)]
    rfl
  all_goals rfl

theorem busWrite32_withSecrets (a : Addr) (v : Word) :
    busWrite32 a v (withSecrets s pbuf key) = (busWrite32 a v s).map (withSecrets · pbuf key) := by
  cases h : regAt a <;> simp [busWrite32, h, writeReg_withSecrets]

/-- A byte write may store into PBUF, in both states alike. -/
theorem busWrite8_withSecrets (a : Addr) (v : Byte) :
    ∃ pbuf', busWrite8 a v (withSecrets s pbuf key) = (busWrite8 a v s).map (withSecrets · pbuf' key) := by
  have hloc : byteAt (withSecrets s pbuf key).cfg a = byteAt s.cfg a := rfl
  simp only [busWrite8, hloc]
  cases byteAt s.cfg a with
  | none => exact ⟨pbuf, rfl⟩
  | some l =>
    cases l with
    | pbuf o => exact ⟨Memory.write pbuf o v, rfl⟩
    | salt | iv | ibuf | obuf => exact ⟨pbuf, rfl⟩

theorem answerWrite_publicEq (effect : Option State) (pbuf' : Memory) :
    (answerWrite s effect).publicEq
      (answerWrite (withSecrets s pbuf key) (effect.map (withSecrets · pbuf' key))) := by
  cases effect <;> rfl

/-- A transaction other than a CMD write shows nothing of the secrets. -/
theorem runTxn_withSecrets {tx : Txn} (hcmd : ∀ w, tx ≠ .write32 cmdAddr w) :
    ∃ s' t', runTxn tx s = .next s' ∧ runTxn tx (withSecrets s pbuf key) = .next t' ∧ s'.publicEq t' := by
  cases tx with
  | read32 a => exact ⟨_, _, rfl, rfl, by rw [busRead32_withSecrets]; rfl⟩
  | read8 a => exact ⟨_, _, rfl, rfl, by rw [busRead8_withSecrets]; rfl⟩
  | write8 a v =>
    obtain ⟨pbuf', hwrite⟩ := busWrite8_withSecrets s pbuf key a v
    refine ⟨_, _, rfl, rfl, ?_⟩
    rw [hwrite]
    exact answerWrite_publicEq ..
  | write32 a v =>
    have ha : a ≠ cmdAddr := fun h => hcmd v (by rw [h])
    refine ⟨_, _, if_neg ha, if_neg ha, ?_⟩
    rw [busWrite32_withSecrets]
    exact answerWrite_publicEq ..

end withSecrets

/-- Settles O25: two publicly equal states differ in the secrets only, which no such transaction shows. -/
theorem secretsAreNotReadable : Obligations.SecretsAreNotReadable := by
  intro s t tx heq hcmd
  rw [eq_withSecrets_of_publicEq heq]
  obtain ⟨s', t', hs, ht, heq'⟩ := runTxn_withSecrets s t.pbuf t.key hcmd
  exact ⟨s', t', hs, ht, heq', replies_eq_of_publicEq heq'⟩

/-! ### Reset (R45) -/

theorem step_reset (s : State) : step { s with inbox := .reset :: s.inbox } = .next (resetBlock s) := rfl

/-- The zero matrix has determinant 0, which is no unit. -/
theorem validKey_zero {s : State} (h : s.k = Mat2.const 0) : validKey (keyMatrix s) = false := by
  rw [keyMatrix, h]
  decide

/-- HDEC with an invalid key ends with InvalidKey over a cleared output. -/
theorem exec_hdec_invalidKey {s : State} (h : validKey (keyMatrix s) = false) :
    exec .hdec s = .next (raiseError .invalidKey (writeInverse (clearOut s))) := by
  simp [exec, execHdec, h]

theorem statusWord_resetBlock (s : State) : statusWord (resetBlock s) = 0 :=
  (show statusWord (resetBlock s) = statusWord State.reset from rfl).trans (by decide)

/-- Settles O12: the reset block holds zeros, and a zero K is an invalid key. -/
theorem resetZeroesEverything : Obligations.ResetZeroesEverything := by
  refine ⟨fun s => ⟨resetBlock s, step_reset s, ?zero⟩, fun s hk => ?hdec, rfl⟩
  case zero =>
    refine ⟨rfl, rfl, rfl, rfl, rfl, rfl, rfl, fun _ => ⟨rfl, rfl, rfl⟩, rfl, rfl, rfl, rfl, rfl, rfl, rfl, rfl, rfl, rfl,
      rfl, ?_⟩
    have hstatus := busRead32_regAddr .status (resetBlock s)
    rw [readReg, statusWord_resetBlock] at hstatus
    exact ⟨hstatus, busRead32_regAddr .id _, busRead32_regAddr .iter _, busRead32_regAddr .icap _,
      busRead32_regAddr .ocap _, busRead32_regAddr .pcap _⟩
  case hdec => exact ⟨_, exec_hdec_invalidKey (validKey_zero hk), rfl, by simp⟩

end Sys2Proof.Machine
end

section
/-! The rules of `20_memory.md`, first part: what the byte windows hold (R61, R66 to R68) and what the word registers read as
(R62). -/

namespace Sys2Proof.Machine

/-! ### The byte windows (R61) -/

/-- The bus address of a byte location. -/
def locAddr (l : ByteLoc) : Addr :=
  match l with
  | .salt i => Asm.baseAddr .salt i.val
  | .iv i => Asm.baseAddr .iv i.val
  | .pbuf o => Asm.baseAddr .pbuf o
  | .ibuf o => Asm.baseAddr .ibuf o
  | .obuf o => Asm.baseAddr .obuf o

/-- A location of a buffer lies below the buffer's capacity. -/
def LocExists (c : Config) (l : ByteLoc) : Prop :=
  match l with
  | .salt _ | .iv _ => True
  | .pbuf o => o < c.pbufCap
  | .ibuf o => o < c.ibufCap
  | .obuf o => o < c.obufCap

/-- The capacities of R8 keep each buffer clear of the window above it, and OBUF within the 16-bit addresses. -/
theorem caps_le_of_wf {c : Config} (hc : c.wf = true) :
    c.pbufCap ≤ 0x0400 ∧ c.ibufCap ≤ 0x4000 ∧ c.obufCap ≤ 0x8000 := by
  simp only [Config.wf, Config.pbufOk, Config.ibufOk, Config.obufOk, Bool.and_eq_true, decide_eq_true_eq] at hc
  omega

/-- The address of a location reaches it: no window is hidden by an earlier one. -/
theorem byteAt_locAddr {c : Config} (hc : c.wf = true) {l : ByteLoc} (hl : LocExists c l) :
    byteAt c (locAddr l) = some l := by
  obtain ⟨hpbuf, hibuf, hobuf⟩ := caps_le_of_wf hc
  cases l <;> simp only [LocExists] at hl <;> simp only [locAddr, Asm.baseAddr, byteAt, BitVec.toNat_ofNat]
  case salt i =>
    simp (disch := omega) only [Nat.mod_eq_of_lt, dif_pos, Nat.add_sub_cancel_left]
  case iv i =>
    simp (disch := omega) only [Nat.mod_eq_of_lt, dif_neg, dif_pos, Nat.add_sub_cancel_left]
  case pbuf o =>
    simp (disch := omega) only [Nat.mod_eq_of_lt, dif_neg, if_pos, Nat.add_sub_cancel_left]
  case ibuf o =>
    simp (disch := omega) only [Nat.mod_eq_of_lt, dif_neg, if_neg, if_pos, Nat.add_sub_cancel_left]
  case obuf o =>
    simp (disch := omega) only [Nat.mod_eq_of_lt, dif_neg, if_neg, if_pos, Nat.add_sub_cancel_left]

/-- An address outside every window reaches no location. -/
theorem byteAt_eq_none_iff (c : Config) (a : Addr) :
    byteAt c a = none ↔
      ¬(0x0100 ≤ a.toNat ∧ a.toNat < 0x0120) ∧ ¬(0x0400 ≤ a.toNat ∧ a.toNat < 0x0400 + c.pbufCap) ∧
        ¬(0x4000 ≤ a.toNat ∧ a.toNat < 0x4000 + c.ibufCap) ∧ ¬(0x8000 ≤ a.toNat ∧ a.toNat < 0x8000 + c.obufCap) := by
  simp only [byteAt]
  split_ifs <;> simp only [true_iff, false_iff] <;> omega

/-- Settles O22: the windows location by location, and the addresses between the windows. -/
theorem byteAddressMapIsExact : Obligations.ByteAddressMapIsExact := by
  intro c hc
  refine ⟨fun i => byteAt_locAddr hc (l := .salt i) trivial, fun i => byteAt_locAddr hc (l := .iv i) trivial,
    fun o ho => byteAt_locAddr hc (l := .pbuf o) ho, fun o ho => byteAt_locAddr hc (l := .ibuf o) ho,
    fun o ho => byteAt_locAddr hc (l := .obuf o) ho, fun a => ?gaps⟩
  case gaps =>
    have hcaps := caps_le_of_wf hc
    rw [byteAt_eq_none_iff]
    omega

/-! ### Byte reads (R66) -/

/-- What the bus shows of a location: the stored byte, but 0 for the password (R41, R66). -/
def shownByte (s : State) (l : ByteLoc) : Byte :=
  match l with
  | .pbuf _ => 0
  | .salt _ | .iv _ | .ibuf _ | .obuf _ => storedByte s l

theorem busRead8_of_byteAt {s : State} {a : Addr} {l : ByteLoc} (h : byteAt s.cfg a = some l) :
    busRead8 a s = some (shownByte s l) := by
  simp only [busRead8, h, Option.map_some]
  cases l <;> rfl

theorem runTxn_read8_locAddr {s : State} (hs : s.cfg.wf = true) {l : ByteLoc} (hl : LocExists s.cfg l) :
    runTxn (.read8 (locAddr l)) s = .next (answer (.byte (shownByte s l)) s) := by
  simp only [runTxn, busRead8_of_byteAt (byteAt_locAddr hs hl)]

/-- Settles O23: the read of each window's locations. -/
theorem byteReadValues : Obligations.ByteReadValues := fun _ hs =>
  ⟨fun i => runTxn_read8_locAddr hs (l := .salt i) trivial, fun i => runTxn_read8_locAddr hs (l := .iv i) trivial,
    fun o ho => runTxn_read8_locAddr hs (l := .pbuf o) ho, fun o ho => runTxn_read8_locAddr hs (l := .ibuf o) ho,
    fun o ho => runTxn_read8_locAddr hs (l := .obuf o) ho⟩

/-! ### Byte writes (R67) -/

/-- The state with the byte at a location replaced; OBUF ignores the write. -/
def storeByte (l : ByteLoc) (v : Byte) (s : State) : State :=
  match l with
  | .salt i => { s with salt := s.salt.set i v }
  | .iv i => { s with iv := s.iv.set i v }
  | .pbuf o => { s with pbuf := Memory.write s.pbuf o v }
  | .ibuf o => { s with ibuf := Memory.write s.ibuf o v }
  | .obuf _ => s

theorem runTxn_write8_of_byteAt {s : State} {a : Addr} {l : ByteLoc} (h : byteAt s.cfg a = some l) (v : Byte) :
    runTxn (.write8 a v) s = .next (answer .ok (storeByte l v s)) := by
  simp only [runTxn, busWrite8, h, Option.map_some, answerWrite_some]
  cases l <;> rfl

/-- A byte write leaves all but the four writable windows alone. -/
theorem storeByte_frame (l : ByteLoc) (v : Byte) (s : State) :
    storeByte l v s =
      { s with
        salt := (storeByte l v s).salt, iv := (storeByte l v s).iv, pbuf := (storeByte l v s).pbuf,
        ibuf := (storeByte l v s).ibuf } := by
  cases l <;> rfl

@[simp] theorem storedByte_answer (r : Reply) (s : State) (l : ByteLoc) : storedByte (answer r s) l = storedByte s l := by
  cases l <;> rfl

theorem getElem_set_of_ne (b : Block) {i j : Fin 16} (hne : j ≠ i) (v : Byte) : (b.set i v)[j] = b[j] :=
  Vector.getElem_set_ne i.isLt j.isLt fun h => hne (Fin.ext h.symm)

theorem Memory.read_write_of_ne {m : Memory} (hm : Memory.wf m = true) {a x : Nat} (hne : x ≠ a) (v : Byte) :
    Memory.read (Memory.write m a v) x = Memory.read m x :=
  (Memory.read_write m a v hm x).trans (if_neg hne)

section storeByte

variable {s : State} (hpbuf : Memory.wf s.pbuf = true) (hibuf : Memory.wf s.ibuf = true)
include hpbuf hibuf

theorem storedByte_storeByte_same {l : ByteLoc} (hl : ∀ o, l ≠ .obuf o) (v : Byte) :
    storedByte (storeByte l v s) l = v := by
  cases l with
  | salt i => simp [storedByte, storeByte]
  | iv i => simp [storedByte, storeByte]
  | pbuf o => simp [storedByte, storeByte, Memory.read_write _ _ _ hpbuf]
  | ibuf o => simp [storedByte, storeByte, Memory.read_write _ _ _ hibuf]
  | obuf o => exact absurd rfl (hl o)

/-- Locations of different windows are different fields; within a window the offsets differ. -/
theorem storedByte_storeByte_of_ne {l l' : ByteLoc} (hne : l' ≠ l) (v : Byte) :
    storedByte (storeByte l v s) l' = storedByte s l' := by
  cases l with
  | salt i =>
    cases l' with
    | salt j => exact getElem_set_of_ne s.salt (fun h => hne (congrArg _ h)) v
    | iv | pbuf | ibuf | obuf => rfl
  | iv i =>
    cases l' with
    | iv j => exact getElem_set_of_ne s.iv (fun h => hne (congrArg _ h)) v
    | salt | pbuf | ibuf | obuf => rfl
  | pbuf o =>
    cases l' with
    | pbuf x => exact Memory.read_write_of_ne hpbuf (fun h => hne (congrArg _ h)) v
    | salt | iv | ibuf | obuf => rfl
  | ibuf o =>
    cases l' with
    | ibuf x => exact Memory.read_write_of_ne hibuf (fun h => hne (congrArg _ h)) v
    | salt | iv | pbuf | obuf => rfl
  | obuf o => rfl

end storeByte

/-- Settles O24: the state after the write is the old one with the byte stored at its location. -/
theorem byteWriteStoresOneByte : Obligations.ByteWriteStoresOneByte := by
  intro s a v l hpbuf hibuf hl
  refine ⟨answer .ok (storeByte l v s), runTxn_write8_of_byteAt hl v, congrArg (answer .ok) (storeByte_frame l v s),
    fun o ho => ?ignored, fun hwritable => ?same, fun l' hne => ?others⟩
  case ignored => subst ho; rfl
  case same => rw [storedByte_answer, storedByte_storeByte_same hpbuf hibuf hwritable]
  case others => rw [storedByte_answer, storedByte_storeByte_of_ne hpbuf hibuf hne]

/-! ### Word reads (R62) -/

theorem runTxn_read32_of_busRead32 {a : Addr} {v : Word} {s : State} (h : busRead32 a s = some v) :
    runTxn (.read32 a) s = .next (answer (.word v) s) := by
  simp only [runTxn, h]

/-- Settles O19: the value of each register, at its address. -/
theorem wordReadValues : Obligations.WordReadValues := by
  intro s
  have detLo : busRead32 0x20#16 s = some (s.det.setWidth 32) := by
    rw [BitVec.setWidth_eq_extractLsb' (by decide)]
    exact busRead32_regAddr .detLo s
  have detHi : busRead32 0x24#16 s = some ((s.det >>> 32).setWidth 32) := by
    rw [BitVec.setWidth_ushiftRight_eq_extractLsb]
    exact busRead32_regAddr .detHi s
  exact ⟨fun _ _ => runTxn_read32_of_busRead32, busRead32_regAddr .id s, busRead32_regAddr .cmd s,
    busRead32_regAddr .status s, busRead32_regAddr .estk s, busRead32_regAddr .k00 s, busRead32_regAddr .k01 s,
    busRead32_regAddr .k10 s, busRead32_regAddr .k11 s, detLo, detHi, busRead32_regAddr .detm s,
    busRead32_regAddr .dinv s, busRead32_regAddr .ki00 s, busRead32_regAddr .ki01 s, busRead32_regAddr .ki10 s,
    busRead32_regAddr .ki11 s, busRead32_regAddr .ilen s, busRead32_regAddr .olen s, busRead32_regAddr .plen s,
    busRead32_regAddr .iter s, busRead32_regAddr .icap s, busRead32_regAddr .ocap s, busRead32_regAddr .pcap s⟩

end Sys2Proof.Machine
end

section
/-! The rules of `20_memory.md`, second part: which transactions are refused, and that a refusal changes nothing (R64, R65,
R68, R69); the range check of the lengths and the bound it gives (R74). -/

namespace Sys2Proof.Machine

/-! ### Refused accesses (R64, R65, R68) -/

theorem runTxn_read32_of_regAt_none {a : Addr} (h : regAt a = none) (s : State) :
    runTxn (.read32 a) s = .next (answer .busErr s) := by
  simp [runTxn, busRead32, h]

/-- The address of CMD reaches a register, so a write that reaches none is no command. -/
theorem runTxn_write32_of_regAt_none {a : Addr} (h : regAt a = none) (v : Word) (s : State) :
    runTxn (.write32 a v) s = .next (answer .busErr s) := by
  have ha : a ≠ cmdAddr := by
    rintro rfl
    exact absurd h (by decide)
  simp [runTxn, ha, busWrite32, h]

theorem runTxn_read8_of_byteAt_none {a : Addr} {s : State} (h : byteAt s.cfg a = none) :
    runTxn (.read8 a) s = .next (answer .busErr s) := by
  simp [runTxn, busRead8, h]

theorem runTxn_write8_of_byteAt_none {a : Addr} {s : State} (h : byteAt s.cfg a = none) (v : Byte) :
    runTxn (.write8 a v) s = .next (answer .busErr s) := by
  simp [runTxn, busWrite8, h]

/-- Settles O17: in each listed range the access reaches no register, or no byte location. -/
theorem illFormedAccessesAreRefused : Obligations.IllFormedAccessesAreRefused := by
  intro s a
  refine ⟨fun ha => ?word, fun ha => ?byte, fun hs ha => ?both⟩
  case word =>
    have hreg : regAt a = none := (regAt_eq_none_iff a).mpr (by omega)
    exact ⟨runTxn_read32_of_regAt_none hreg s, fun v => runTxn_write32_of_regAt_none hreg v s⟩
  case byte =>
    have hloc : byteAt s.cfg a = none := (byteAt_eq_none_iff _ a).mpr (by omega)
    exact ⟨runTxn_read8_of_byteAt_none hloc, fun v => runTxn_write8_of_byteAt_none hloc v⟩
  case both =>
    have hcaps := caps_le_of_wf hs
    have hreg : regAt a = none := (regAt_eq_none_iff a).mpr (by omega)
    have hloc : byteAt s.cfg a = none := (byteAt_eq_none_iff _ a).mpr (by omega)
    exact ⟨runTxn_read32_of_regAt_none hreg s, runTxn_read8_of_byteAt_none hloc,
      fun v => runTxn_write32_of_regAt_none hreg v s, fun v => runTxn_write8_of_byteAt_none hloc v⟩

/-! ### A refusal changes nothing (R69) -/

theorem head_reply_answer {r r' : Reply} {s : State} {rs : List Reply} (h : (answer r s).replies = r' :: rs) : r = r' :=
  List.head_eq_of_cons_eq h

/-- Settles O18: a transaction with an effect answers OK, and every other one answers the old state. -/
theorem refusedTransactionChangesNothing : Obligations.RefusedTransactionChangesNothing := by
  intro s t tx ht hreply
  obtain ⟨_, u, -, -, hrun⟩ | ⟨_, _, u, -, -, -, hrun⟩ | ⟨_, _, u, -, -, hrun⟩ | ⟨-, r, hrun⟩ := runTxn_cases tx s <;>
    obtain rfl := Host.Outcome.next.inj (hrun.symm.trans ht)
  case inl | inr.inl | inr.inr.inl => cases head_reply_answer hreply
  case inr.inr.inr =>
    obtain rfl := head_reply_answer hreply
    rfl

/-! ### The lengths (R74) -/

/-- Both lengths are within their capacities. -/
def LengthsFit (s : State) : Prop := s.ilen ≤ s.cfg.ibufCap ∧ s.plen ≤ s.cfg.pbufCap

/-- CLR sets both lengths to 0, and no other command writes one. -/
theorem exec_lengthsFit {i : Instr} {s t : State} (h : LengthsFit s) (ht : exec i s = .next t) : LengthsFit t := by
  by_cases hi : i = .clr
  · subst hi
    cases ht
    exact ⟨Nat.zero_le _, Nat.zero_le _⟩
  · obtain ⟨c, u, hexec, frame⟩ := exec_completes i s
    obtain ⟨-, -, hilen, hplen⟩ := frame.inputs hi
    obtain rfl := Host.Outcome.next.inj (hexec.symm.trans ht)
    simpa only [LengthsFit, complete_ilen, complete_plen, complete_cfg, hilen, hplen, frame.cfg] using h

theorem runWord_lengthsFit {w : Word} {s t : State} (h : LengthsFit s) (ht : runWord w s = .next t) : LengthsFit t := by
  obtain ⟨i, -, hrun⟩ | ⟨-, hrun⟩ := runWord_cases w s <;> rw [hrun] at ht
  · exact exec_lengthsFit h ht
  · cases ht
    exact h

/-- A word write that stores a length has checked it. -/
theorem busWrite32_lengthsFit {a : Addr} {v : Word} {s t : State} (h : LengthsFit s) (ht : busWrite32 a v s = some t) :
    LengthsFit t := by
  obtain ⟨hilen, hplen⟩ := h
  obtain ⟨k, rfl⟩ | ⟨n, hn, rfl⟩ | ⟨n, hn, rfl⟩ | ⟨e, rfl⟩ | rfl := busWrite32_some ht
  · exact ⟨hilen, hplen⟩
  · exact ⟨hn, hplen⟩
  · exact ⟨hilen, hn⟩
  · exact ⟨hilen, hplen⟩
  · exact ⟨hilen, hplen⟩

theorem busWrite8_lengthsFit {a : Addr} {v : Byte} {s t : State} (h : LengthsFit s) (ht : busWrite8 a v s = some t) :
    LengthsFit t := by
  obtain ⟨_, rfl⟩ | ⟨_, rfl⟩ | ⟨_, _, rfl⟩ | ⟨_, _, rfl⟩ | rfl := busWrite8_some ht <;> exact h

theorem lengthsFit_answer {s : State} (h : LengthsFit s) (r : Reply) : LengthsFit (answer r s) := h

theorem runTxn_lengthsFit {tx : Txn} {s t : State} (h : LengthsFit s) (ht : runTxn tx s = .next t) : LengthsFit t := by
  obtain ⟨w, u, -, hu, hrun⟩ | ⟨a, v, u, -, -, hu, hrun⟩ | ⟨a, v, u, -, hu, hrun⟩ | ⟨-, r, hrun⟩ := runTxn_cases tx s <;>
    obtain rfl := Host.Outcome.next.inj (hrun.symm.trans ht)
  · exact lengthsFit_answer (runWord_lengthsFit h hu) _
  · exact lengthsFit_answer (busWrite32_lengthsFit h hu) _
  · exact lengthsFit_answer (busWrite8_lengthsFit h hu) _
  · exact lengthsFit_answer h r

theorem step_lengthsFit {s t : State} (h : LengthsFit s) (ht : step s = .next t) : LengthsFit t := by
  obtain ⟨-, hstep⟩ | ⟨rest, -, hstep⟩ | ⟨tx, rest, -, hstep⟩ := step_cases s <;> rw [hstep] at ht
  · cases ht
    exact h
  · cases ht
    exact ⟨Nat.zero_le _, Nat.zero_le _⟩
  · exact runTxn_lengthsFit (s := { s with inbox := rest }) h ht

theorem runTxn_write_ilen (s : State) (v : Word) :
    runTxn (.write32 0x40#16 v) s = .next
      (if v.toNat ≤ s.cfg.ibufCap then { s with ilen := v.toNat, replies := .ok :: s.replies }
       else { s with replies := .busErr :: s.replies }) := by
  refine (runTxn_write32_regAddr (r := .ilen) nofun v s).trans ?_
  simp only [writeReg]
  split <;> rfl

theorem runTxn_write_plen (s : State) (v : Word) :
    runTxn (.write32 0x48#16 v) s = .next
      (if v.toNat ≤ s.cfg.pbufCap then { s with plen := v.toNat, replies := .ok :: s.replies }
       else { s with replies := .busErr :: s.replies }) := by
  refine (runTxn_write32_regAddr (r := .plen) nofun v s).trans ?_
  simp only [writeReg]
  split <;> rfl

/-- Settles O21: the two register writes, and the bound kept by every step. -/
theorem lengthWritesAreRangeChecked : Obligations.LengthWritesAreRangeChecked :=
  ⟨fun s v => ⟨runTxn_write_ilen s v, runTxn_write_plen s v⟩, ⟨Nat.zero_le _, Nat.zero_le _⟩,
    fun _ _ hilen hplen => step_lengthsFit ⟨hilen, hplen⟩⟩

end Sys2Proof.Machine
end

section
/-! The rules of `30_encoding.md`, first part: the command words (R90 to R93), the step that runs one (R92, R100), and the
codes a command can end with (R91). -/

namespace Sys2Proof.Machine

/-! ### The two fields of a word (R90) -/

/-- The reserved bits of a word below 256, and of no other, are 0. -/
theorem rsvField_eq_zero_iff (w : Word) : rsvField w = 0 ↔ w.toNat < 256 := by
  have value : (rsvField w).toNat = w.toNat / 256 := by
    simp only [rsvField, BitVec.extractLsb'_toNat, Nat.shiftRight_eq_div_pow]
    omega
  rw [← BitVec.toNat_inj, value]
  exact Nat.div_eq_zero_iff_lt (by decide)

/-- A word is its two fields one after the other. -/
theorem rsvField_append_opField (w : Word) : rsvField w ++ opField w = w :=
  (BitVec.extractLsb'_append_extractLsb'_eq_extractLsb' rfl).trans BitVec.extractLsb'_eq_self

theorem encodeShape (i : Instr) : Laws.EncodeShape.Statement i := by
  cases i
  exacts [Laws.EncodeShape.nop, Laws.EncodeShape.mdet, Laws.EncodeShape.minv, Laws.EncodeShape.henc,
    Laws.EncodeShape.hdec, Laws.EncodeShape.kdrv, Laws.EncodeShape.pad, Laws.EncodeShape.unpd, Laws.EncodeShape.cbce,
    Laws.EncodeShape.cbcd, Laws.EncodeShape.encr, Laws.EncodeShape.decr, Laws.EncodeShape.clr]

@[simp] theorem rsvField_encode (i : Instr) : rsvField (encode i) = 0 :=
  let ⟨_, hrsv, _⟩ := encodeShape i
  hrsv

@[simp] theorem opField_encode (i : Instr) : opField (encode i) = opcodeOf i :=
  let ⟨_, _, hop⟩ := encodeShape i
  hop

theorem toNat_encode_lt (i : Instr) : (encode i).toNat < 256 := (rsvField_eq_zero_iff _).mp (rsvField_encode i)

/-- A word with the two fields of a command word is that word. -/
theorem eq_encode_of_fields {w : Word} {i : Instr} (hrsv : rsvField w = 0) (hop : opField w = opcodeOf i) : w = encode i := by
  rw [← rsvField_append_opField w, hrsv, hop]
  rfl

/-! ### The opcode map (R91) -/

@[simp] theorem instrOfOpcode_opcodeOf (i : Instr) : instrOfOpcode (opcodeOf i) = some i := by cases i <;> rfl

theorem eq_opcodeOf_of_instrOfOpcode {op : Byte} {i : Instr} (h : instrOfOpcode op = some i) : op = opcodeOf i := by
  unfold instrOfOpcode at h
  split at h <;> cases h <;> exact BitVec.eq_of_toNat_eq ‹_›

/-! ### The decoder (R92) -/

theorem decode_of_rsvField_ne_zero {w : Word} (h : rsvField w ≠ 0) : decode w = .error .reservedBits := if_pos h

theorem decode_of_instrOfOpcode_some {w : Word} {i : Instr} (hrsv : rsvField w = 0)
    (hop : instrOfOpcode (opField w) = some i) : decode w = .ok i := by
  simp [decode, hrsv, hop]

theorem decode_of_instrOfOpcode_none {w : Word} (hrsv : rsvField w = 0) (hop : instrOfOpcode (opField w) = none) :
    decode w = .error .unusedOpcode := by
  simp [decode, hrsv, hop]

@[simp] theorem decode_encode (i : Instr) : decode (encode i) = .ok i :=
  decode_of_instrOfOpcode_some (rsvField_encode i) (by simp)

/-- The decoder has three branches: a reserved bit is set, the word is a command's, or its opcode is unused. -/
theorem decode_cases (w : Word) :
    (256 ≤ w.toNat ∧ decode w = .error .reservedBits) ∨ (∃ i, w = encode i ∧ decode w = .ok i) ∨
      (w.toNat < 256 ∧ decode w = .error .unusedOpcode) := by
  by_cases hrsv : rsvField w = 0
  · cases hop : instrOfOpcode (opField w) with
    | none => exact .inr (.inr ⟨(rsvField_eq_zero_iff w).mp hrsv, decode_of_instrOfOpcode_none hrsv hop⟩)
    | some i =>
      have word := eq_encode_of_fields hrsv (eq_opcodeOf_of_instrOfOpcode hop)
      exact .inr (.inl ⟨i, word, decode_of_instrOfOpcode_some hrsv hop⟩)
  · exact .inl ⟨Nat.le_of_not_lt fun hlt => hrsv ((rsvField_eq_zero_iff w).mpr hlt), decode_of_rsvField_ne_zero hrsv⟩

theorem eq_encode_of_decode {w : Word} {i : Instr} (h : decode w = .ok i) : w = encode i := by
  obtain ⟨-, hdec⟩ | ⟨j, rfl, hdec⟩ | ⟨-, hdec⟩ := decode_cases w <;> cases hdec.symm.trans h
  rfl

theorem decode_eq_ok_iff (w : Word) (i : Instr) : decode w = .ok i ↔ w = encode i :=
  ⟨eq_encode_of_decode, fun h => h ▸ decode_encode i⟩

theorem decode_of_ge {w : Word} (h : 256 ≤ w.toNat) : decode w = .error .reservedBits :=
  decode_of_rsvField_ne_zero fun hrsv => absurd ((rsvField_eq_zero_iff w).mp hrsv) (Nat.not_lt.mpr h)

theorem decode_of_lt_of_ne {w : Word} (hlt : w.toNat < 256) (hne : ∀ i, w ≠ encode i) :
    decode w = .error .unusedOpcode := by
  obtain ⟨hge, -⟩ | ⟨i, hw, -⟩ | ⟨-, hdec⟩ := decode_cases w
  · exact absurd hlt (Nat.not_lt.mpr hge)
  · exact absurd hw (hne i)
  · exact hdec

/-- Two commands of one word are what the decoder reads from it. -/
theorem encode_injective : Function.Injective encode := fun i j h =>
  Except.ok.inj ((decode_encode i).symm.trans ((decode_eq_ok_iff _ j).mpr h))

theorem wf_instr (i : Instr) : i.wf = true := by cases i <;> rfl

/-- Settles O4, from the decoder's three branches. -/
theorem decodeAcceptsExactlyCommandWords : Obligations.DecodeAcceptsExactlyCommandWords :=
  ⟨decode_eq_ok_iff, fun _ => decode_of_ge, fun _ => decode_of_lt_of_ne, fun _ _ h => encode_injective h,
    fun i => ⟨wf_instr i, toNat_encode_lt i⟩⟩

/-- Settles O5: the thirteen words are the encodings, three others are not below 256, and 0x12 is no command's word. -/
theorem commandWordsOfTheTable : Obligations.CommandWordsOfTheTable :=
  ⟨decode_encode .nop, decode_encode .mdet, decode_encode .minv, decode_encode .henc, decode_encode .hdec,
    decode_encode .kdrv, decode_encode .pad, decode_encode .unpd, decode_encode .cbce, decode_encode .cbcd,
    decode_encode .encr, decode_encode .decr, decode_encode .clr, decode_of_ge (by decide), decode_of_ge (by decide),
    decode_of_ge (by decide), decode_of_lt_of_ne (by decide) fun i => by cases i <;> decide⟩

/-! ### The step on a command word (R75, R92, R100) -/

/-- A step with a transaction waiting performs it in the state without it. -/
theorem step_of_inbox_bus {s : State} {tx : Txn} {rest : List Event} (h : s.inbox = .bus tx :: rest) :
    step s = runTxn tx { s with inbox := rest } := by
  simp only [step, h, runEvent]

theorem runWord_of_decode {w : Word} {i : Instr} (h : decode w = .ok i) (s : State) : runWord w s = exec i s := by
  simp only [runWord, h]

/-- Settles O1: the step is the CMD write, which runs the word's command and answers OK. -/
theorem stepRunsDecodedCommand : Obligations.StepRunsDecodedCommand := by
  intro s w i rest hinbox hdec
  obtain ⟨t, ht⟩ := exec_next i { s with inbox := rest }
  have hrun : runWord w { s with inbox := rest } = .next t := (runWord_of_decode hdec _).trans ht
  exact ⟨t, ht, (step_of_inbox_bus hinbox).trans (runTxn_cmd w _ t hrun)⟩

/-! ### The codes a command can end with (R91) -/

/-- Every command ends in the completion with a code of its row. The cases split on what the command judges. -/
theorem exec_completes_mayEndWith (i : Instr) (s : State) : ∃ c ∈ mayEndWith i, ∃ u, exec i s = .next (complete c u) := by
  cases i
  case nop | mdet | henc | kdrv | pad | encr | clr => exact ⟨.success, by decide, _, rfl⟩
  case minv =>
    simp only [exec, execMinv]
    split <;> exact ⟨_, by decide, _, rfl⟩
  case hdec | unpd | cbce | cbcd | decr =>
    simp only [exec, execHdec, execUnpd, execCbce, execCbcd, execDecr]
    split
    · exact ⟨_, by decide, _, rfl⟩
    · split <;> exact ⟨_, by decide, _, rfl⟩

/-- Settles O10: a completion writes DONE, the code, and ERR by the code. -/
theorem commandsEndOnlyWithTheirCodes : Obligations.CommandsEndOnlyWithTheirCodes := by
  intro i s
  obtain ⟨c, hc, u, hexec⟩ := exec_completes_mayEndWith i s
  refine ⟨complete c u, hexec, hc, rfl, ?_⟩
  rw [complete_err, complete_ecode, isError_eq, decide_eq_true_iff]

end Sys2Proof.Machine
end

section
/-! The rules of `30_encoding.md`, second part: the host's load of the input message, `ldi` (R97, R98), as the transactions it
expands to. -/

namespace Sys2Proof.Machine

/-! ### A run through the inbox -/

/-- A run with a transaction waiting performs it and goes on with one step less. -/
theorem run_succ_of_inbox_bus {s t : State} {tx : Txn} {rest : List Event} (hinbox : s.inbox = .bus tx :: rest)
    (ht : runTxn tx { s with inbox := rest } = .next t) (k : Nat) :
    Host.Core.run core (k + 1) s = Host.Core.run core k t := by
  have hstep : core.step s = .next t := (step_of_inbox_bus hinbox).trans ht
  simp only [Host.Core.run, hstep]

/-! ### The byte writes of `ldi` (R67) -/

theorem runTxn_wr8_ibuf {s : State} (hs : s.cfg.wf = true) {o : Nat} (ho : o < s.cfg.ibufCap) (v : Byte) :
    runTxn (Asm.wr8 .ibuf o v) s = .next (answer .ok { s with ibuf := Memory.write s.ibuf o v }) :=
  runTxn_write8_of_byteAt (byteAt_locAddr hs (l := .ibuf o) ho) v

/-- The byte writes that put a string into IBUF from offset `a` on. -/
def ibufWrites : (a : Nat) → List Byte → List Txn
  | _, [] => []
  | a, b :: bs => Asm.wr8 .ibuf a b :: ibufWrites (a + 1) bs

theorem ibufWrites_eq_mapIdx (a : Nat) (bytes : List Byte) :
    ibufWrites a bytes = bytes.mapIdx fun i v => Asm.wr8 .ibuf (a + i) v := by
  induction bytes generalizing a with
  | nil => rfl
  | cons b bs ih => simp [ibufWrites, ih, List.mapIdx_cons, Nat.add_assoc, Nat.add_comm 1]

theorem ldi_eq (bytes : List Byte) : Asm.ldi bytes = ibufWrites 0 bytes ++ [Asm.wr32 .ilen bytes.length] := by
  simp [Asm.ldi, Asm.putBytes, ibufWrites_eq_mapIdx]

/-- As many steps as the string has bytes write it into IBUF, each with the reply OK; the events behind are left waiting. -/
theorem run_ibufWrites (bytes : List Byte) (rest : List Event) (k : Nat) (a : Nat) (s : State) (hs : s.cfg.wf = true)
    (hfit : a + bytes.length ≤ s.cfg.ibufCap) (hinbox : s.inbox = (ibufWrites a bytes).map .bus ++ rest) :
    Host.Core.run core (bytes.length + k) s =
      Host.Core.run core k
        { s with
          ibuf := Memory.writeBytes s.ibuf a bytes, inbox := rest,
          replies := List.replicate bytes.length .ok ++ s.replies } := by
  induction bytes generalizing a s with
  | nil =>
    obtain rfl : s.inbox = rest := hinbox
    simp [Memory.writeBytes]
  | cons b bs ih =>
    rw [List.length_cons] at hfit ⊢
    have ha : a < s.cfg.ibufCap := by omega
    have hwrite := runTxn_wr8_ibuf (s := { s with inbox := (ibufWrites (a + 1) bs).map .bus ++ rest }) hs ha b
    rw [Nat.add_right_comm, run_succ_of_inbox_bus hinbox hwrite, ih (a + 1)]
    case hs => exact hs
    case hfit => exact (Nat.add_right_comm a 1 bs.length).trans_le hfit
    case hinbox => rfl
    simp only [answer, Memory.writeBytes, List.replicate_succ', List.append_assoc, List.singleton_append]

/-! ### The length write of `ldi` (R74) -/

theorem runTxn_wr32_ilen {s : State} (hs : s.cfg.wf = true) {n : Nat} (hn : n ≤ s.cfg.ibufCap) :
    runTxn (Asm.wr32 .ilen n) s = .next (answer .ok { s with ilen := n }) := by
  obtain ⟨-, hcap, -⟩ := caps_le_of_wf hs
  have value : (BitVec.ofInt 32 (n : Int)).toNat = n := by
    rw [BitVec.ofInt_natCast, BitVec.toNat_ofNat, Nat.mod_eq_of_lt (by omega)]
  refine (runTxn_write_ilen s _).trans ?_
  rw [value, if_pos hn]
  rfl

/-- Settles O26: the byte writes, by induction on the string, and then the length. -/
theorem loadInputThroughTheBus : Obligations.LoadInputThroughTheBus := by
  intro s bytes hs _ hfit hinbox
  rw [ldi_eq, List.map_append] at hinbox
  rw [run_ibufWrites bytes _ 1 0 s hs (by omega) hinbox]
  refine run_succ_of_inbox_bus (rest := []) rfl ?_ 0
  apply runTxn_wr32_ilen
  case hs => exact hs
  case hn => exact hfit

end Sys2Proof.Machine
end

section
/-! The matrix rules of `40_matrix.md`: the units modulo 26 (R115), the determinant's width (R112), the inverse matrix (R114,
R116, R121), and the two commands (R117, R118). -/

namespace Sys2Proof.Machine

/-! ### The units modulo 26 (R11, R115) -/

theorem isUnit26_iff_gcd (d : Fin 26) : isUnit26 d = true ↔ Nat.gcd d.val 26 = 1 := beq_iff_eq

theorem isUnit26_iff_mem (d : Fin 26) : isUnit26 d = true ↔ d ∈ [1, 3, 5, 7, 9, 11, 15, 17, 19, 21, 23, 25] := by
  revert d; decide

/-- The table has a row for `d` exactly with the residue whose product with `d` is 1. -/
theorem inv26_eq_some_iff (d x : Fin 26) : inv26 d = some x ↔ d.val * x.val % 26 = 1 := by
  revert d x; decide

theorem isUnit26_of_mul_mod_eq_one {d x : Fin 26} (h : d.val * x.val % 26 = 1) : isUnit26 d = true :=
  (isUnit26_iff_gcd d).mpr (Nat.coprime_of_mul_modEq_one x.val h)

theorem isUnit26_iff_inv26_ne_none (d : Fin 26) : isUnit26 d = true ↔ inv26 d ≠ none := by
  constructor
  · intro hunit
    obtain ⟨x, hx, -⟩ := inv26_of_unit d hunit
    simp [hx]
  · intro hrow
    obtain ⟨x, hx⟩ := Option.ne_none_iff_exists'.mp hrow
    exact isUnit26_of_mul_mod_eq_one ((inv26_eq_some_iff d x).mp hx)

/-- Settles O28: the unit test three ways, and the table by its products. -/
theorem inverseTableIsExact : Obligations.InverseTableIsExact :=
  ⟨fun d => ⟨isUnit26_iff_gcd d, isUnit26_iff_mem d, isUnit26_iff_inv26_ne_none d⟩, inv26_eq_some_iff, rfl, rfl⟩

/-! ### The determinant's width (R112) -/

/-- Settles O29: the bounds of a product and of the determinant, and the extreme key evaluated. -/
theorem determinantFitsSixtyFourBits : Obligations.DeterminantFitsSixtyFourBits := by
  have fits (k : Mat2 Word) : -(2 : Int) ^ 63 + 2 ^ 31 ≤ detOf k ∧ detOf k ≤ 2 ^ 63 - 2 ^ 31 ∧
      (BitVec.ofInt 64 (detOf k)).toInt = detOf k := by
    obtain ⟨hlo, hhi⟩ := detOf_bounds k
    exact ⟨hlo, hhi, toInt_ofInt_detOf k⟩
  exact ⟨toInt_mul_toInt_bounds, fits, by decide, by decide, by decide⟩

/-! ### Matrices over the integers modulo 26 (R121)

R121 is a law of the ring of 2 by 2 matrices over the integers modulo 26, where Mathlib knows that a right inverse of a
square matrix is a left inverse and the only one. -/

/-- The residue classes of the entries, as a matrix of Mathlib's. -/
def classes26 (m : Mat2 Int) : Matrix (Fin 2) (Fin 2) (ZMod 26) := !![m.m00, m.m01; m.m10, m.m11]

theorem classes26_ext_iff (m n : Mat2 Int) :
    classes26 m = classes26 n ↔
      m.m00 % 26 = n.m00 % 26 ∧ m.m01 % 26 = n.m01 % 26 ∧ m.m10 % 26 = n.m10 % 26 ∧ m.m11 % 26 = n.m11 % 26 := by
  have entry (a b : Int) : (a : ZMod 26) = b ↔ a % 26 = b % 26 := ZMod.intCast_eq_intCast_iff' a b 26
  simp [classes26, entry, and_assoc]

/-- The identity modulo 26, entry by entry. -/
theorem classes26_mul_eq_one_iff (m n : Mat2 Int) :
    classes26 m * classes26 n = 1 ↔
      (m.m00 * n.m00 + m.m01 * n.m10) % 26 = 1 ∧ (m.m00 * n.m01 + m.m01 * n.m11) % 26 = 0 ∧
        (m.m10 * n.m00 + m.m11 * n.m10) % 26 = 0 ∧ (m.m10 * n.m01 + m.m11 * n.m11) % 26 = 1 := by
  have product : classes26 m * classes26 n = classes26
      ⟨m.m00 * n.m00 + m.m01 * n.m10, m.m00 * n.m01 + m.m01 * n.m11, m.m10 * n.m00 + m.m11 * n.m10,
        m.m10 * n.m01 + m.m11 * n.m11⟩ := by simp [classes26]
  have one : (1 : Matrix (Fin 2) (Fin 2) (ZMod 26)) = classes26 ⟨1, 0, 0, 1⟩ := by simp [classes26, Matrix.one_fin_two]
  rw [product, one, classes26_ext_iff]
  rfl

/-- A matrix of residues is determined by its residue classes. -/
theorem eq_of_classes26_residue {q r : Mat2 (Fin 26)} (h : classes26 (q.map residue) = classes26 (r.map residue)) :
    q = r := by
  have reduced (d : Fin 26) : residue d % 26 = residue d := by rw [← residue_mod26, mod26_residue]
  have injective {a b : Fin 26} (hab : residue a = residue b) : a = b := Fin.ext (Int.ofNat_inj.mp hab)
  obtain ⟨q00, q01, q10, q11⟩ := q
  obtain ⟨r00, r01, r10, r11⟩ := r
  simp only [classes26_ext_iff, Mat2.map, reduced] at h
  obtain ⟨h00, h01, h10, h11⟩ := h
  rw [injective h00, injective h01, injective h10, injective h11]

/-- Settles O32: the right inverse `mul_minv26`, which in the matrix ring is a left inverse and the only one. -/
theorem inverseMatrixIsTheInverse : Obligations.InverseMatrixIsTheInverse := by
  intro m dm di q h
  have right : classes26 m * classes26 (q.map residue) = 1 := (classes26_mul_eq_one_iff _ _).mpr (mul_minv26 h)
  have left : classes26 (q.map residue) * classes26 m = 1 := mul_eq_one_comm.mp right
  refine ⟨mul_minv26 h, (classes26_mul_eq_one_iff _ _).mp left, fun r h00 h01 h10 h11 => ?_⟩
  have other : classes26 m * classes26 (r.map residue) = 1 := (classes26_mul_eq_one_iff _ _).mpr ⟨h00, h01, h10, h11⟩
  exact eq_of_classes26_residue (left_inv_eq_right_inv left other).symm

/-! ### The reduction law (R116) -/

theorem mod26_det2_reduce (m : Mat2 Int) : mod26 (det2 (m.map fun z => z % 26)) = mod26 (det2 m) :=
  mod26_congr <|
    ((Int.mod_modEq m.m00 26).mul (Int.mod_modEq m.m11 26)).sub ((Int.mod_modEq m.m01 26).mul (Int.mod_modEq m.m10 26))

/-- A multiple of the adjugate has the same residues when the entries are reduced first. -/
theorem map_adj2_reduce (c : Int) (m : Mat2 Int) :
    ((adj2 (m.map fun z => z % 26)).map fun a => mod26 (c * a)) = (adj2 m).map fun a => mod26 (c * a) := by
  have pos (z : Int) : mod26 (c * (z % 26)) = mod26 (c * z) := mod26_congr ((Int.mod_modEq z 26).mul_left c)
  have neg (z : Int) : mod26 (c * -(z % 26)) = mod26 (c * -z) := mod26_congr ((Int.mod_modEq z 26).neg.mul_left c)
  simp only [adj2, Mat2.map, pos, neg]

theorem minv26_reduce (m : Mat2 Int) : minv26 (m.map fun z => z % 26) = minv26 m := by
  simp only [minv26, mod26_det2_reduce, map_adj2_reduce]

/-- Settles O33: the reduction law, and the rule's two matrices evaluated. -/
theorem reducingEntriesFirstChangesNothing : Obligations.ReducingEntriesFirstChangesNothing :=
  ⟨fun m => ⟨mod26_det2_reduce m, minv26_reduce m⟩, by decide, by decide, by decide, by decide⟩

/-! ### The two commands (R117, R118) -/

/-- A completion with success records no error. -/
theorem complete_success_eq (s : State) :
    complete .success s = { s with done := true, err := false, ecode := .success } := by
  simp [complete]

/-- The model's test of the key is the one of R119. -/
theorem validKey_keyMatrix_iff (s : State) : validKey (keyMatrix s) = true ↔ keyGood s.k := by
  have value : (mod26 (detOf s.k)).val = (detOf s.k % 26).natAbs := by
    have := val_mod26 (detOf s.k)
    omega
  rw [validKey, det2_keyMatrix, isUnit26_iff_gcd, value]
  rfl

theorem exec_mdet (s : State) : exec .mdet s = .next (complete .success (writeDet s)) := rfl

theorem exec_minv_valid {s : State} (h : validKey (keyMatrix s) = true) :
    exec .minv s = .next (complete .success (writeInverse s)) := by
  simp [exec, execMinv, h]

theorem exec_minv_invalid {s : State} (h : validKey (keyMatrix s) = false) :
    exec .minv s = .next (raiseError .invalidKey (writeInverse s)) := by
  simp [exec, execMinv, h]

/-- Settles O30: the state after `writeDet`, completed with success. -/
theorem mdetWritesExactDeterminant : Obligations.MdetWritesExactDeterminant := by
  refine ⟨decode_encode .mdet, fun s => ⟨_, exec_mdet s, ?effect, ?det, ?detm⟩⟩
  case effect => rw [complete_success_eq]; rfl
  case det => exact toInt_ofInt_detOf s.k
  case detm => exact val_mod26 (detOf s.k)

/-- With a valid key DINV is the inverse of DETM, and KI is DINV times the adjugate modulo 26. -/
theorem writeInverse_entries {s : State} (h : validKey (keyMatrix s) = true) :
    (writeInverse s).detm.val * (writeInverse s).dinv.val % 26 = 1 ∧
      (writeInverse s).ki = (adj2 (keyMatrix s)).map fun a => mod26 (residue (writeInverse s).dinv * a) := by
  obtain ⟨-, hinv⟩ := writeInverse_valid s h
  obtain ⟨-, -, hdinv, hki⟩ := minv26_some hinv
  exact ⟨(inv26_eq_some_iff _ _).mp hdinv, hki⟩

/-- Settles O31: the key is valid or not, and `writeInverse` is known in either case. -/
theorem minvWritesInverseOrInvalidKey : Obligations.MinvWritesInverseOrInvalidKey := by
  refine ⟨decode_encode .minv, fun s => ?_⟩
  have det : (writeInverse s).det.toInt = detOf s.k := by rw [writeInverse_det]; exact toInt_ofInt_detOf s.k
  have detm : ((writeInverse s).detm.val : Int) = detOf s.k % 26 := by rw [writeInverse_detm]; exact val_mod26 (detOf s.k)
  cases hvalid : validKey (keyMatrix s) with
  | true =>
    have good : keyGood s.k := (validKey_keyMatrix_iff s).mp hvalid
    obtain ⟨hdinv, hki⟩ := writeInverse_entries hvalid
    refine ⟨_, exec_minv_valid hvalid, det, detm, fun _ => ⟨?frame, hdinv, ?entries⟩, fun bad => absurd good bad⟩
    case frame =>
      rw [complete_success_eq, writeInverse_valid_eq s hvalid]
      rfl
    case entries =>
      rw [complete_ki, hki]
      exact ⟨val_mod26 _, val_mod26 _, val_mod26 _, val_mod26 _⟩
  | false =>
    have bad : ¬keyGood s.k := by simp [← validKey_keyMatrix_iff, hvalid]
    refine ⟨_, exec_minv_invalid hvalid, det, detm, fun good => absurd good bad, fun _ => ?_⟩
    rw [writeInverse_invalid s hvalid]
    rfl

end Sys2Proof.Machine
end

section
/-! The rules of `41_hill_cipher.md`, first part: applying a matrix to a block (R134), the transform of a text and its inversion
(R130 to R135, R138, R141). -/

namespace Sys2Proof.Machine

/-! ### Applying a matrix to a block (R134)

As in R121, a block is taken to the integers modulo 26, where COL is Mathlib's product of a matrix with a column and ROW the
product of a row with a matrix. -/

/-- The residue classes of a block, as a vector of Mathlib's. -/
def blockClasses26 (p : Fin 26 × Fin 26) : Fin 2 → ZMod 26 := ![residue p.1, residue p.2]

theorem intCast_residue_mod26 (z : Int) : ((residue (mod26 z) : Int) : ZMod 26) = z := by
  rw [residue_mod26]
  exact ZMod.intCast_mod z 26

/-- A residue is determined by its class. -/
theorem intCast_residue_injective {a b : Fin 26} (h : ((residue a : Int) : ZMod 26) = residue b) : a = b := by
  have same : residue a % 26 = residue b % 26 := (ZMod.intCast_eq_intCast_iff' _ _ 26).mp h
  rw [← mod26_residue a, ← mod26_residue b, mod26_congr same]

theorem blockClasses26_injective : Function.Injective blockClasses26 := by
  intro p q h
  have first : ((residue p.1 : Int) : ZMod 26) = residue q.1 := congrFun h 0
  have second : ((residue p.2 : Int) : ZMod 26) = residue q.2 := congrFun h 1
  exact Prod.ext (intCast_residue_injective first) (intCast_residue_injective second)

theorem blockClasses26_applyBlock_col (m : Mat2 Int) (p : Fin 26 × Fin 26) :
    blockClasses26 (applyBlock .col m p.1 p.2) = (classes26 m).mulVec (blockClasses26 p) := by
  simp [blockClasses26, applyBlock, classes26, intCast_residue_mod26, -residue_mod26, -Matrix.mulVec_cons]

theorem blockClasses26_applyBlock_row (m : Mat2 Int) (p : Fin 26 × Fin 26) :
    blockClasses26 (applyBlock .row m p.1 p.2) = Matrix.vecMul (blockClasses26 p) (classes26 m) := by
  simp [blockClasses26, applyBlock, classes26, intCast_residue_mod26, -residue_mod26]

/-- The transformed block depends on the residue classes of the entries only. -/
theorem applyBlock_congr {m n : Mat2 Int} (h : classes26 m = classes26 n) (o : Orientation) (v0 v1 : Fin 26) :
    applyBlock o m v0 v1 = applyBlock o n v0 v1 := by
  apply blockClasses26_injective
  cases o with
  | col => rw [blockClasses26_applyBlock_col m (v0, v1), blockClasses26_applyBlock_col n (v0, v1), h]
  | row => rw [blockClasses26_applyBlock_row m (v0, v1), blockClasses26_applyBlock_row n (v0, v1), h]

theorem classes26_reduce (m : Mat2 Int) : classes26 (m.map fun z => z % 26) = classes26 m :=
  (classes26_ext_iff _ _).mpr ⟨Int.emod_emod .., Int.emod_emod .., Int.emod_emod .., Int.emod_emod ..⟩

/-- ROW is COL with the transpose. -/
theorem applyBlock_row_eq_col (m : Mat2 Int) (v0 v1 : Fin 26) :
    applyBlock .row m v0 v1 = applyBlock .col ⟨m.m00, m.m10, m.m01, m.m11⟩ v0 v1 := by
  simp only [applyBlock, mul_comm]

/-- Settles O35: both orientations by the value of `mod26`, and the reduction by `applyBlock_congr`. -/
theorem applyInBothOrientations : Obligations.ApplyInBothOrientations := fun m v0 v1 =>
  ⟨⟨val_mod26 _, val_mod26 _⟩, ⟨val_mod26 _, val_mod26 _⟩, applyBlock_row_eq_col m v0 v1,
    fun o => applyBlock_congr (classes26_reduce m) o v0 v1⟩

/-- A matrix that is an inverse modulo 26 undoes the transform of a block: COL needs it on the left, ROW on the right, and it
is one on both sides. -/
theorem applyBlock_applyBlock_of_inverse {m n : Mat2 Int} (h : classes26 n * classes26 m = 1) (o : Orientation)
    (v0 v1 : Fin 26) : applyBlock o n (applyBlock o m v0 v1).1 (applyBlock o m v0 v1).2 = (v0, v1) := by
  apply blockClasses26_injective
  cases o with
  | col =>
    rw [blockClasses26_applyBlock_col, blockClasses26_applyBlock_col m (v0, v1), Matrix.mulVec_mulVec, h,
      Matrix.one_mulVec]
  | row =>
    rw [blockClasses26_applyBlock_row, blockClasses26_applyBlock_row m (v0, v1), Matrix.vecMul_vecMul,
      mul_eq_one_comm.mp h, Matrix.vecMul_one]

/-! ### The transform of a text (R131 to R135) -/

/-- An inverse modulo 26 undoes the transform of whole blocks. -/
theorem applyBlocks_applyBlocks_of_inverse {m n : Mat2 Int} (h : classes26 n * classes26 m = 1) (o : Orientation)
    (v : List (Fin 26)) (even : v.length % 2 = 0) : applyBlocks o n (applyBlocks o m v) = v := by
  match v with
  | [] => rfl
  | [_] => simp at even
  | v0 :: v1 :: rest =>
    have restEven : rest.length % 2 = 0 := by
      simp only [List.length_cons] at even
      omega
    simp only [applyBlocks, applyBlock_applyBlock_of_inverse h, applyBlocks_applyBlocks_of_inverse h o rest restEven]

theorem fill_of_even {v : List (Fin 26)} (h : v.length % 2 = 0) : fill v = v := if_neg (by omega)

theorem fill_of_odd {v : List (Fin 26)} (h : v.length % 2 = 1) : fill v = v ++ [10] := if_pos h

/-- The letters of a mapped-back sequence are the sequence. -/
@[simp] theorem strip_map_chr26 (v : List (Fin 26)) : strip (v.map chr26) = v := by
  rw [strip, List.filterMap_map, show letterIndex ∘ chr26 = some from funext letterIndex_chr26, List.filterMap_some]

theorem strip_hillEncode (o : Orientation) (m : Mat2 Int) (text : List Byte) :
    strip (hillEncode o m text) = applyBlocks o m (fill (strip text)) := strip_map_chr26 _

theorem strip_hillDecode (o : Orientation) (q : Mat2 (Fin 26)) (text : List Byte) :
    strip (hillDecode o q text) = applyBlocks o (q.map residue) (strip text) := strip_map_chr26 _

/-- An encoded text has an even number of letters. -/
theorem length_strip_hillEncode_even (o : Orientation) (m : Mat2 Int) (text : List Byte) :
    (strip (hillEncode o m text)).length % 2 = 0 := by
  rw [strip_hillEncode, applyBlocks_even o m _ (length_fill_even _)]
  exact length_fill_even _

/-- What `minv26` answers is an inverse in the matrix ring. -/
theorem classes26_minv26_mul {m : Mat2 Int} {dm di : Fin 26} {q : Mat2 (Fin 26)} (h : minv26 m = some (dm, di, q)) :
    classes26 (q.map residue) * classes26 m = 1 :=
  mul_eq_one_comm.mp ((classes26_mul_eq_one_iff _ _).mpr (mul_minv26 h))

/-- Decoding an encoded text gives its letters with the filler (R138). -/
theorem hillDecode_hillEncode {m : Mat2 Int} {dm di : Fin 26} {q : Mat2 (Fin 26)} (h : minv26 m = some (dm, di, q))
    (o : Orientation) (text : List Byte) :
    hillDecode o q (hillEncode o m text) = (fill (strip text)).map chr26 := by
  rw [hillDecode, strip_hillEncode,
    applyBlocks_applyBlocks_of_inverse (classes26_minv26_mul h) o _ (length_fill_even _)]

/-- Encoding a decoded text gives its letters (R141). -/
theorem hillEncode_hillDecode {m : Mat2 Int} {dm di : Fin 26} {q : Mat2 (Fin 26)} (h : minv26 m = some (dm, di, q))
    (o : Orientation) {text : List Byte} (even : (strip text).length % 2 = 0) :
    hillEncode o m (hillDecode o q text) = lettersOf text := by
  have decodedEven : (applyBlocks o (q.map residue) (strip text)).length % 2 = 0 := by rwa [applyBlocks_even o _ _ even]
  rw [hillEncode, strip_hillDecode, fill_of_even decodedEven,
    applyBlocks_applyBlocks_of_inverse (mul_eq_one_comm.mp (classes26_minv26_mul h)) o _ even]
  rfl

/-- The letters with the filler, as R138 writes them. -/
theorem map_chr26_fill_strip (text : List Byte) :
    (fill (strip text)).map chr26 =
      if (strip text).length % 2 = 0 then lettersOf text else lettersOf text ++ [0x4B#8] := by
  split
  · rename_i even
    rw [fill_of_even even]
    rfl
  · rename_i odd
    rw [fill_of_odd (by omega), List.map_append]
    rfl

end Sys2Proof.Machine
end

section
/-! The rules of `41_hill_cipher.md`, second part: the two commands (R136, R137), invalid keys (R140), and the commands one
after the other (R138, R141). -/

namespace Sys2Proof.Machine

/-! ### The output of the two commands (R133, R135) -/

/-- An output written over a cleared one is the output message of the completed command. -/
theorem outputIs_complete_writeOut (c : ErrorCode) (r : List Byte) {s : State} (clear : s.obuf = []) :
    OutputIs (complete c (writeOut r s)) r := by
  obtain ⟨holen, hout, hread⟩ := writeOut_clear r s clear
  refine ⟨holen, hout, fun o ho => (hread o).trans ?_⟩
  simp [List.getElem?_eq_none ho]

theorem outputIs_nil {t : State} (hobuf : t.obuf = []) (holen : t.olen = 0) : OutputIs t [] :=
  ⟨holen, by simp [output, holen, Memory.readBytes], fun o _ => by rw [hobuf, Memory.read_nil]⟩

/-- A byte of the output message, as OBUF holds it. -/
theorem OutputIs.read_eq {t : State} {r : List Byte} (h : OutputIs t r) {o : Nat} {x : Byte} (hx : r[o]? = some x) :
    Memory.read t.obuf o = x := by
  obtain ⟨-, rfl, -⟩ := h
  obtain ⟨_, rfl⟩ := List.getElem?_eq_some_iff.mp hx
  simp [output, Memory.readBytes]

/-- An output made of the letters of transformed blocks: its length, block b, and the zeros after it. -/
theorem OutputIs.blocks {t : State} {o : Orientation} {m : Mat2 Int} {v : List (Fin 26)}
    (h : OutputIs t ((applyBlocks o m v).map chr26)) (even : v.length % 2 = 0) :
    t.olen = v.length ∧
      (∀ b x0 x1, v[2 * b]? = some x0 → v[2 * b + 1]? = some x1 →
        Memory.read t.obuf (2 * b) = chr26 (applyBlock o m x0 x1).1 ∧
          Memory.read t.obuf (2 * b + 1) = chr26 (applyBlock o m x0 x1).2) ∧
        ∀ a, t.olen ≤ a → Memory.read t.obuf a = 0 := by
  have ⟨holen, _, tail⟩ := h
  refine ⟨?olen, fun b x0 x1 h0 h1 => ?block, fun a ha => tail a (holen ▸ ha)⟩
  case olen => rw [holen, List.length_map, applyBlocks_even o m v even]
  case block =>
    obtain ⟨first, second⟩ := applyBlocks_at o m v b x0 x1 h0 h1
    exact ⟨h.read_eq (by simp [first]), h.read_eq (by simp [second])⟩

/-! ### HENC (R136) -/

theorem exec_henc (s : State) :
    exec .henc s =
      .next (complete .success (writeOut (hillEncode s.cfg.orient (keyMatrix s) (message s)) (clearOut s))) := rfl

/-- Settles O36: the output is that of the blocks of the filled letters. -/
theorem hencEncodesEveryBlock : Obligations.HencEncodesEveryBlock := by
  refine ⟨decode_encode .henc, fun s => ?_⟩
  have even := length_fill_even (strip (message s))
  have out := outputIs_complete_writeOut .success (hillEncode s.cfg.orient (keyMatrix s) (message s)) (clearOut_obuf s)
  obtain ⟨holen, block, tail⟩ := out.blocks even
  refine ⟨_, fill (strip (message s)), exec_henc s, ?frame, rfl, holen, even, ?fits, block, tail⟩
  case frame => rw [complete_success_eq]; rfl
  case fits => simpa using length_hillEncode_le s.cfg.orient (keyMatrix s) (message s)

/-! ### HDEC (R137) -/

theorem exec_hdec_malformed {s : State} (valid : validKey (keyMatrix s) = true)
    (odd : (strip (message s)).length % 2 = 1) :
    exec .hdec s = .next (raiseError .malformedInput (writeInverse (clearOut s))) := by
  simp [exec, execHdec, valid, odd]

theorem exec_hdec_decodes {s : State} (valid : validKey (keyMatrix s) = true)
    (even : (strip (message s)).length % 2 = 0) :
    exec .hdec s =
      .next (complete .success
        (writeOut (hillDecode s.cfg.orient (writeInverse (clearOut s)).ki (message s)) (writeInverse (clearOut s)))) := by
  simp [exec, execHdec, valid, even]

/-- Settles O37: the key is judged, then the number of letters, and each outcome is one of the equations of HDEC. -/
theorem hdecDecodesOrReportsWhy : Obligations.HdecDecodesOrReportsWhy := by
  refine ⟨decode_encode .hdec, fun s => ?_⟩
  have det : (writeInverse (clearOut s)).det.toInt = detOf s.k := by
    rw [writeInverse_det]; exact toInt_ofInt_detOf s.k
  have detm : ((writeInverse (clearOut s)).detm.val : Int) = detOf s.k % 26 := by
    rw [writeInverse_detm]; exact val_mod26 (detOf s.k)
  cases hvalid : validKey (keyMatrix s) with
  | false =>
    have bad : ¬keyGood s.k := by simp [← validKey_keyMatrix_iff, hvalid]
    refine ⟨_, exec_hdec_invalidKey hvalid, det, detm, fun _ => ?_, fun good => absurd good bad⟩
    rw [writeInverse_invalid (clearOut s) hvalid]
    rfl
  | true =>
    have good : keyGood s.k := (validKey_keyMatrix_iff s).mp hvalid
    have frame := writeInverse_valid_eq (clearOut s) hvalid
    obtain ⟨-, hinv⟩ := writeInverse_valid (clearOut s) hvalid
    obtain even | odd := Nat.mod_two_eq_zero_or_one (strip (message s)).length
    · have out := outputIs_complete_writeOut .success
        (hillDecode s.cfg.orient (writeInverse (clearOut s)).ki (message s)) (s := writeInverse (clearOut s)) (by simp)
      obtain ⟨holen, block, tail⟩ := out.blocks even
      refine ⟨_, exec_hdec_decodes hvalid even, det, detm, fun bad => absurd good bad,
        fun _ => ⟨hinv, fun odd => by omega, fun _ => ⟨?frame, holen, ?fits, block, tail⟩⟩⟩
      case frame =>
        rw [complete_success_eq, frame]
        rfl
      case fits => simpa using length_hillDecode_le s.cfg.orient (writeInverse (clearOut s)).ki even
    · refine ⟨_, exec_hdec_malformed hvalid odd, det, detm, fun bad => absurd good bad,
        fun _ => ⟨hinv, fun _ => ?_, fun even => by omega⟩⟩
      rw [frame]
      rfl

/-! ### Invalid keys (R140) -/

theorem not_keyGood_of_detOf_mem {k : Mat2 Word} (h : detOf k ∈ [0, 2, 13, 26]) : ¬keyGood k := by
  have noUnit : ∀ d ∈ ([0, 2, 13, 26] : List Int), ¬Int.gcd (d % 26) 26 = 1 := by decide
  exact noUnit _ h

/-- Settles O40: HDEC's first outcome over the cleared output, and the four determinants evaluated. -/
theorem invalidKeyNeverDecodes : Obligations.InvalidKeyNeverDecodes := by
  refine fun s => ⟨fun bad => ?_, not_keyGood_of_detOf_mem⟩
  have invalid : validKey (keyMatrix s) = false := by rwa [← Bool.not_eq_true, validKey_keyMatrix_iff]
  exact ⟨_, exec_hdec_invalidKey invalid, rfl, rfl, outputIs_nil (by simp) (by simp)⟩

/-! ### One command after the other (R138, R141) -/

/-- The copied output is the next command's message. -/
theorem message_feedBack {t : State} (hform : Memory.wf t.ibuf = true) : message (feedBack t) = output t :=
  Memory.readBytes_writeBytes t.ibuf 0 (output t) hform

/-- What the next command finds after the copy: the output as its message, and the same key and orientation. -/
theorem feedBack_exec {i : Instr} (hi : i ≠ .clr) {s t : State} (hform : Memory.wf s.ibuf = true)
    (ht : exec i s = .next t) :
    message (feedBack t) = output t ∧ keyMatrix (feedBack t) = keyMatrix s ∧ (feedBack t).cfg = s.cfg := by
  obtain ⟨c, u, hexec, frame⟩ := exec_completes i s
  obtain rfl := Host.Outcome.next.inj (hexec.symm.trans ht)
  obtain ⟨hibuf, -⟩ := frame.inputs hi
  exact ⟨message_feedBack (by rwa [complete_ibuf, hibuf]), keyMatrix_congr frame.k, frame.cfg⟩

theorem exec_henc_outputIs (s : State) :
    ∃ t, exec .henc s = .next t ∧ t.ecode = .success ∧
      OutputIs t (hillEncode s.cfg.orient (keyMatrix s) (message s)) :=
  ⟨_, exec_henc s, rfl, outputIs_complete_writeOut _ _ (clearOut_obuf s)⟩

theorem exec_hdec_outputIs {s : State} {dm di : Fin 26} {q : Mat2 (Fin 26)}
    (h : minv26 (keyMatrix s) = some (dm, di, q)) (even : (strip (message s)).length % 2 = 0) :
    ∃ t, exec .hdec s = .next t ∧ t.ecode = .success ∧ OutputIs t (hillDecode s.cfg.orient q (message s)) := by
  obtain ⟨hvalid, -, -, -⟩ := minv26_some h
  obtain ⟨-, hinv⟩ := writeInverse_valid (clearOut s) hvalid
  cases h.symm.trans hinv
  exact ⟨_, exec_hdec_decodes hvalid even, rfl, outputIs_complete_writeOut _ _ (by simp)⟩

theorem exists_minv26_of_keyGood {s : State} (good : keyGood s.k) :
    ∃ dm di q, minv26 (keyMatrix s) = some (dm, di, q) := by
  obtain ⟨di, -, h⟩ := minv26_eq_of_valid _ ((validKey_keyMatrix_iff s).mpr good)
  exact ⟨_, di, _, h⟩

/-- Settles O38: HDEC finds the encoded text, whose number of letters is even, and decodes it to the filled letters. -/
theorem hillRoundTrip : Obligations.HillRoundTrip := by
  intro s good hform
  obtain ⟨dm, di, q, hinv⟩ := exists_minv26_of_keyGood good
  obtain ⟨t, henc, hcode, -, hout, -⟩ := exec_henc_outputIs s
  obtain ⟨hmsg, hkey, hcfg⟩ := feedBack_exec (i := .henc) nofun hform henc
  rw [hout] at hmsg
  have even : (strip (message (feedBack t))).length % 2 = 0 := by
    rw [hmsg]; exact length_strip_hillEncode_even ..
  obtain ⟨u, hdec, hcode', decoded⟩ := exec_hdec_outputIs (by rw [hkey]; exact hinv) even
  refine ⟨t, u, henc, hcode, hdec, hcode', ?_⟩
  rwa [hmsg, hcfg, hillDecode_hillEncode hinv, map_chr26_fill_strip] at decoded

/-- Settles O39: HENC finds the decoded text, which has as many letters, and needs no filler to undo it. -/
theorem encodingUndoesDecoding : Obligations.EncodingUndoesDecoding := by
  intro s good hform even
  obtain ⟨dm, di, q, hinv⟩ := exists_minv26_of_keyGood good
  obtain ⟨t, hdec, hcode, -, hout, -⟩ := exec_hdec_outputIs hinv even
  obtain ⟨hmsg, hkey, hcfg⟩ := feedBack_exec (i := .hdec) nofun hform hdec
  obtain ⟨u, henc, -, encoded⟩ := exec_henc_outputIs (feedBack t)
  refine ⟨t, u, hdec, hcode, henc, ?_⟩
  rwa [hmsg, hout, hkey, hcfg, hillEncode_hillDecode hinv _ even] at encoded

end Sys2Proof.Machine
end

section
/-! The rules of `42_kdf.md`: the default derivation (R153) and KDRV (R152). -/

namespace Sys2Proof.Machine

/-! ### One block of the default derivation (R153) -/

section pbkdf2

variable {prf : List Byte → List Byte → List Byte} {pw : List Byte} {hlen : Nat}

@[simp] theorem int32be_one : int32be 1 = [0, 0, 0, 1] := rfl

@[simp] theorem length_xorBytes (a b : List Byte) : (xorBytes a b).length = min a.length b.length :=
  List.length_zipWith

/-- The loop is a fold over as many elements as it has turns, whatever they are. -/
theorem pbkdf2Loop_eq_foldl {α : Type} (l : List α) (u t : List Byte) :
    pbkdf2Loop prf pw l.length u t =
      (l.foldl (fun (p : List Byte × List Byte) _ => (prf pw p.1, xorBytes p.2 (prf pw p.1))) (u, t)).2 := by
  induction l generalizing u t with
  | nil => rfl
  | cons _ l ih => exact ih _ _

/-- The exclusive-or of the iterates keeps the PRF's length. -/
theorem length_pbkdf2Loop (hprf : ∀ m, (prf pw m).length = hlen) (n : Nat) (u : List Byte) {t : List Byte}
    (ht : t.length = hlen) : (pbkdf2Loop prf pw n u t).length = hlen := by
  induction n generalizing u t with
  | zero => exact ht
  | succ n ih => exact ih _ (by simp [ht, hprf])

theorem length_pbkdf2Block (hprf : ∀ m, (prf pw m).length = hlen) (salt : List Byte) (c i : Nat) :
    (pbkdf2Block prf pw salt c i).length = hlen :=
  length_pbkdf2Loop hprf _ _ (hprf _)

/-- As many bytes as the PRF gives take one block: `ceil(HLEN / HLEN)` is 1, and nothing is cut off. -/
theorem pbkdf2_hlen (hpos : 0 < hlen) (hprf : ∀ m, (prf pw m).length = hlen) (salt : List Byte) (c : Nat) :
    pbkdf2 prf hlen pw salt c hlen = pbkdf2Block prf pw salt c 1 := by
  have blocks : (hlen + hlen - 1) / hlen = 1 := Nat.div_eq_of_lt_le (by omega) (by omega)
  have whole := length_pbkdf2Block hprf salt c 1
  simp [pbkdf2, blocks, List.take_of_length_le whole.le]

end pbkdf2

/-- Settles O42: 32 bytes are one block of the PRF, and its loop of `c - 1` turns is the fold. -/
theorem defaultKdfIsOneBlock : Obligations.DefaultKdfIsOneBlock := by
  intro prf pw salt c hprf _
  rw [pbkdf2_hlen (by decide) (hprf pw)]
  refine ⟨?fold, length_pbkdf2Block (hprf pw) salt c 1⟩
  case fold => simp only [← pbkdf2Loop_eq_foldl, List.length_range, pbkdf2Block, int32be_one]

/-! ### KDRV (R152) -/

theorem exec_kdrv (s : State) : exec .kdrv s = .next (complete .success (loadKey (deriveKey s s.salt) s)) := rfl

/-- Settles O41: the word is KDRV's, and completing with success sets no sticky bit. -/
theorem kdrvDerivesTheKey : Obligations.KdrvDerivesTheKey := by
  refine ⟨decode_encode .kdrv, fun s => ?_⟩
  rw [exec_kdrv, complete_success_eq]
  rfl

end Sys2Proof.Machine
end

section
/-! The rules of `43_padding.md`: the two string functions (R160, R161, R164) and the two commands (R162, R163). -/

namespace Sys2Proof.Machine

/-! ### Appending (R160) -/

/-- The pad length stands for itself in a byte. -/
theorem toNat_ofNat_padLen (s : List Byte) : (BitVec.ofNat 8 (padLen s)).toNat = padLen s := by
  rw [BitVec.toNat_ofNat, padLen]
  omega

/-- The pad length is the only number from 1 to 16 that fills the last block. -/
theorem eq_padLen_iff (s : List Byte) (n : Nat) : n = padLen s ↔ 1 ≤ n ∧ n ≤ 16 ∧ (s.length + n) % 16 = 0 := by
  rw [padLen]
  omega

theorem padLen_bounds (s : List Byte) : 1 ≤ padLen s ∧ padLen s ≤ 16 ∧ (s.length + padLen s) % 16 = 0 :=
  (eq_padLen_iff s _).mp rfl

/-- A padded string is made of whole blocks, at least one. -/
theorem pad16_whole_blocks (s : List Byte) : (pad16 s).length % 16 = 0 ∧ 16 ≤ (pad16 s).length := by
  rw [length_pad16]
  omega

/-- Settles O43: the pad length, its bounds, and the whole blocks it completes. -/
theorem paddingShape : Obligations.PaddingShape := by
  intro s
  obtain ⟨one, le, -⟩ := padLen_bounds s
  exact ⟨padLen s, rfl, one, le, rfl, length_pad16 s, pad16_whole_blocks s⟩

/-! ### Stripping (R161) -/

/-- The test of `unpad16` on the bytes from place k on, place by place as R161 writes it. -/
theorem all_drop_eq_iff (t : List Byte) (k : Nat) (p : Byte) :
    (t.drop k).all (· == p) = true ↔ ∀ i, k ≤ i → i < t.length → t[i]? = some p := by
  simp only [List.all_eq_true, beq_iff_eq, List.forall_mem_iff_getElem, List.getElem_drop, List.length_drop]
  constructor
  · intro h i hk hi
    have byte := h (i - k) (by omega)
    rw [List.getElem?_eq_getElem hi, ← byte]
    simp [hk]
  · intro h i hi
    exact (List.getElem?_eq_some_iff.mp (h (k + i) (by omega) (by omega))).2

theorem unpad16_eq_some_iff (t r : List Byte) :
    unpad16 t = some r ↔
      1 ≤ (t.getLastD 0).toNat ∧ (t.getLastD 0).toNat ≤ 16 ∧
        (∀ i, t.length - (t.getLastD 0).toNat ≤ i → i < t.length → t[i]? = some (t.getLastD 0)) ∧
          r = t.take (t.length - (t.getLastD 0).toNat) := by
  rw [← all_drop_eq_iff, unpad16]
  generalize t.getLastD 0 = p
  by_cases range : p.toNat = 0 ∨ 16 < p.toNat
  · rw [if_pos range]
    constructor
    · nofun
    · omega
  · have one : 1 ≤ p.toNat := by omega
    have le : p.toNat ≤ 16 := by omega
    rw [if_neg range, Option.ite_none_right_eq_some, Option.some.injEq, eq_comm (b := r)]
    simp only [one, le, true_and]

/-- Settles O44: a string that is not empty has a last byte, the one `unpad16` judges. -/
theorem unpaddingIsStrict : Obligations.UnpaddingIsStrict := by
  intro t r pos _
  have last : t[t.length - 1]? = some (t.getLastD 0) := by
    have ne : t ≠ [] := List.ne_nil_of_length_pos pos
    rw [← List.getLast?_eq_getElem?, List.getLastD_eq_getLast?, List.getLast?_eq_some_getLast ne, Option.getD_some]
  rw [unpad16_eq_some_iff]
  constructor
  · exact fun h => ⟨_, last, h⟩
  · rintro ⟨p, hp, h⟩
    obtain rfl : t.getLastD 0 = p := Option.some.inj (last.symm.trans hp)
    exact h

/-! ### Stripping undoes appending, and nothing else (R164) -/

/-- A string that ends in n bytes p is what stands before them, and then n times p. -/
theorem eq_append_replicate_iff {t : List Byte} {n : Nat} (hn : n ≤ t.length) (r : List Byte) (p : Byte) :
    t = r ++ List.replicate n p ↔
      (∀ i, t.length - n ≤ i → i < t.length → t[i]? = some p) ∧ r = t.take (t.length - n) := by
  have tail : (t.drop (t.length - n)).all (· == p) = true ↔ t.drop (t.length - n) = List.replicate n p := by
    simp [List.eq_replicate_iff, Nat.sub_sub_self hn]
  rw [← all_drop_eq_iff, tail]
  constructor
  · intro h
    have front : t.length - n = r.length := by simp [h]
    rw [front, h]
    simp
  · rintro ⟨h, rfl⟩
    rw [← h, List.take_append_drop]

/-- The padded strings among those of whole blocks: r, then p bytes p with p from 1 to 16. -/
theorem pad16_eq_iff {t : List Byte} (whole : t.length % 16 = 0) (r : List Byte) :
    pad16 r = t ↔ ∃ p : Byte, 1 ≤ p.toNat ∧ p.toNat ≤ 16 ∧ t = r ++ List.replicate p.toNat p := by
  constructor
  · rintro rfl
    obtain ⟨one, le, -⟩ := padLen_bounds r
    refine ⟨BitVec.ofNat 8 (padLen r), ?_⟩
    rw [toNat_ofNat_padLen]
    exact ⟨one, le, rfl⟩
  · rintro ⟨p, one, le, rfl⟩
    have hp : p.toNat = padLen r := (eq_padLen_iff r _).mpr ⟨one, le, by simpa using whole⟩
    rw [pad16, ← hp, BitVec.ofNat_toNat, BitVec.setWidth_eq]

/-- `unpad16` answers r for the string of whole blocks that is the padded r, and for no other. -/
theorem unpad16_eq_some_iff_pad16_eq {t : List Byte} (pos : 0 < t.length) (whole : t.length % 16 = 0) (r : List Byte) :
    unpad16 t = some r ↔ pad16 r = t := by
  rw [unpaddingIsStrict t r pos whole, pad16_eq_iff whole]
  refine exists_congr fun p => ?_
  constructor
  · rintro ⟨-, one, le, tail⟩
    exact ⟨one, le, (eq_append_replicate_iff (by omega) r p).mpr tail⟩
  · rintro ⟨one, le, h⟩
    obtain ⟨bytes, front⟩ := (eq_append_replicate_iff (by omega) r p).mp h
    exact ⟨bytes _ (by omega) (by omega), one, le, bytes, front⟩

/-- Settles O45: the padded string has whole blocks, so the equivalence holds of it too. -/
theorem unpadInvertsPad : Obligations.UnpadInvertsPad := by
  refine ⟨fun s => ?_, fun t r pos whole => unpad16_eq_some_iff_pad16_eq pos whole r⟩
  obtain ⟨whole, le⟩ := pad16_whole_blocks s
  exact (unpad16_eq_some_iff_pad16_eq (by omega) whole s).mpr rfl

/-! ### PAD (R162) -/

theorem exec_pad (s : State) :
    exec .pad s = .next (complete .success (writeOut (pad16 (message s)) (clearOut s))) := rfl

/-- Settles O46: the padded message over the cleared output, completed with success. -/
theorem padWritesPaddedMessage : Obligations.PadWritesPaddedMessage := by
  refine ⟨decode_encode .pad, fun s => ⟨_, exec_pad s, ?frame, ?out, ?olen⟩⟩
  case frame => rw [complete_success_eq]; rfl
  case out => exact outputIs_complete_writeOut _ _ (clearOut_obuf s)
  case olen => simp [length_pad16]

/-! ### UNPD (R163) -/

theorem lengthUnaligned_iff (s : State) : lengthUnaligned s = true ↔ s.ilen = 0 ∨ s.ilen % 16 ≠ 0 := by
  simp [lengthUnaligned]

theorem exec_unpd_malformed {s : State} (bad : s.ilen = 0 ∨ s.ilen % 16 ≠ 0) :
    exec .unpd s = .next (raiseError .malformedInput (clearOut s)) := by
  simp [exec, execUnpd, (lengthUnaligned_iff s).mpr bad]

theorem exec_unpd_rejects {s : State} (good : ¬(s.ilen = 0 ∨ s.ilen % 16 ≠ 0)) (h : unpad16 (message s) = none) :
    exec .unpd s = .next (raiseError .invalidPadding (clearOut s)) := by
  simp [exec, execUnpd, mt (lengthUnaligned_iff s).mp good, h]

theorem exec_unpd_strips {s : State} (good : ¬(s.ilen = 0 ∨ s.ilen % 16 ≠ 0)) {r : List Byte}
    (h : unpad16 (message s) = some r) :
    exec .unpd s = .next (complete .success (writeOut r (clearOut s))) := by
  simp [exec, execUnpd, mt (lengthUnaligned_iff s).mp good, h]

/-- Settles O47: the length is judged, then the padding, and each outcome is one of the equations of UNPD. -/
theorem unpdStripsOrReportsWhy : Obligations.UnpdStripsOrReportsWhy := by
  refine ⟨decode_encode .unpd, fun s => ?_⟩
  by_cases bad : s.ilen = 0 ∨ s.ilen % 16 ≠ 0
  · exact ⟨_, exec_unpd_malformed bad, fun _ => rfl, fun _ _ => by omega, fun _ _ _ => by omega⟩
  cases padding : unpad16 (message s) with
  | none => exact ⟨_, exec_unpd_rejects bad padding, fun h => absurd h bad, fun _ _ _ => rfl, fun _ _ _ => nofun⟩
  | some r =>
    refine ⟨_, exec_unpd_strips bad padding, fun h => absurd h bad, fun _ _ => nofun, ?_⟩
    rintro _ - - ⟨⟩
    refine ⟨?frame, outputIs_complete_writeOut _ _ (clearOut_obuf s)⟩
    case frame => rw [complete_success_eq]; rfl

end Sys2Proof.Machine
end

section
/-! The rules of `44_cbc.md`: the chaining equations (R171, R174), the two inversion laws (R175) and the two commands (R172,
R173). -/

namespace Sys2Proof.Machine

/-! ### The chain as an equation of block lists (R171, R174)

The previous blocks of a chain are its blocks moved up by one place, with the IV in front. -/

theorem cbcEncBlocks_eq_zipWith (f : Block → Block) (p : Block) (bs : List Block) :
    cbcEncBlocks f p bs = List.zipWith (fun x prev => f (xorBlock x prev)) bs (p :: cbcEncBlocks f p bs) := by
  induction bs generalizing p with
  | nil => rfl
  | cons x xs ih => exact congrArg (f (xorBlock x p) :: ·) (ih (f (xorBlock x p)))

theorem cbcDecBlocks_eq_zipWith (f : Block → Block) (p : Block) (bs : List Block) :
    cbcDecBlocks f p bs = List.zipWith (fun y prev => xorBlock (f y) prev) bs (p :: bs) := by
  induction bs generalizing p with
  | nil => rfl
  | cons y ys ih => exact congrArg (xorBlock (f y) p :: ·) (ih y)

/-! ### The blocks of the two results -/

@[simp] theorem blocksOf_cbcEnc (f : Block → Block) (iv : Block) (x : List Byte) :
    blocksOf (cbcEnc f iv x) = cbcEncBlocks f iv (blocksOf x) :=
  blocksOf_joinBlocks _

@[simp] theorem blocksOf_cbcDec (f : Block → Block) (iv : Block) (x : List Byte) :
    blocksOf (cbcDec f iv x) = cbcDecBlocks f iv (blocksOf x) :=
  blocksOf_joinBlocks _

/-- Block i of a string that has it. -/
theorem blocksOf_getElem?_eq_some {x : List Byte} {i : Nat} (hi : i < x.length / 16) :
    (blocksOf x)[i]? = some (blockAt x i) := by
  simp [blocksOf, hi]

/-- The block before block i of a string, the IV for the first. -/
theorem cons_blocksOf_getElem?_eq_some (iv : Block) {x : List Byte} {i : Nat} (hi : i < x.length / 16) :
    (iv :: blocksOf x)[i]? = some (if i = 0 then iv else blockAt x (i - 1)) := by
  cases i with
  | zero => rfl
  | succ j => exact blocksOf_getElem?_eq_some (Nat.lt_of_succ_lt hi)

section chain

variable {x : List Byte} (whole : x.length % 16 = 0) {i : Nat} (hi : i < x.length / 16)
include whole hi

theorem blockAt_cbcEnc (f : Block → Block) (iv : Block) :
    blockAt (cbcEnc f iv x) i = f (xorBlock (blockAt x i) (if i = 0 then iv else blockAt (cbcEnc f iv x) (i - 1))) := by
  have hi' : i < (cbcEnc f iv x).length / 16 := by rwa [length_cbcEnc f iv x whole]
  have prev := cons_blocksOf_getElem?_eq_some iv hi'
  have block := blocksOf_getElem?_eq_some hi'
  rw [blocksOf_cbcEnc] at prev block
  rw [cbcEncBlocks_eq_zipWith, List.getElem?_zipWith, blocksOf_getElem?_eq_some hi, prev] at block
  exact (Option.some.inj block).symm

theorem blockAt_cbcDec (f : Block → Block) (iv : Block) :
    blockAt (cbcDec f iv x) i = xorBlock (f (blockAt x i)) (if i = 0 then iv else blockAt x (i - 1)) := by
  have hi' : i < (cbcDec f iv x).length / 16 := by rwa [length_cbcDec f iv x whole]
  have block := blocksOf_getElem?_eq_some hi'
  rw [blocksOf_cbcDec, cbcDecBlocks_eq_zipWith, List.getElem?_zipWith, blocksOf_getElem?_eq_some hi,
    cons_blocksOf_getElem?_eq_some iv hi] at block
  exact (Option.some.inj block).symm

end chain

/-- Settles O48: a string of m whole blocks has a block i for each i below m, and the two chains are equations of blocks. -/
theorem chainingEquations : Obligations.ChainingEquations := by
  refine ⟨fun a b i => getElem_xorBlock a b i i.isLt, fun f iv x m hm _ => ?_⟩
  have whole : x.length % 16 = 0 := by omega
  refine ⟨length_cbcEnc f iv x whole, length_cbcDec f iv x whole, fun i him => ?_⟩
  have hi : i < x.length / 16 := by omega
  exact ⟨blockAt_cbcEnc whole hi f iv, blockAt_cbcDec whole hi f iv⟩

/-! ### The inversion laws (R175) -/

section inverse

variable {enc dec : Block → Block}

/-- The decryption sees the blocks the encryption chained with, so it takes off the same exclusive-or. -/
theorem cbcDecBlocks_cbcEncBlocks (h : Function.LeftInverse dec enc) (p : Block) (bs : List Block) :
    cbcDecBlocks dec p (cbcEncBlocks enc p bs) = bs := by
  induction bs generalizing p with
  | nil => rfl
  | cons x xs ih => rw [cbcEncBlocks, cbcDecBlocks, h, xorBlock_xorBlock, ih]

/-- The encryption makes the decrypted blocks again one by one, and chains with them as the decryption did. -/
theorem cbcEncBlocks_cbcDecBlocks (h : Function.RightInverse dec enc) (p : Block) (bs : List Block) :
    cbcEncBlocks enc p (cbcDecBlocks dec p bs) = bs := by
  induction bs generalizing p with
  | nil => rfl
  | cons y ys ih => rw [cbcDecBlocks, cbcEncBlocks, xorBlock_xorBlock, h, ih]

theorem cbcDec_cbcEnc (h : Function.LeftInverse dec enc) (iv : Block) {x : List Byte} (whole : x.length % 16 = 0) :
    cbcDec dec iv (cbcEnc enc iv x) = x := by
  rw [cbcDec, blocksOf_cbcEnc, cbcDecBlocks_cbcEncBlocks h, joinBlocks_blocksOf x whole]

theorem cbcEnc_cbcDec (h : Function.RightInverse dec enc) (iv : Block) {y : List Byte} (whole : y.length % 16 = 0) :
    cbcEnc enc iv (cbcDec dec iv y) = y := by
  rw [cbcEnc, blocksOf_cbcDec, cbcEncBlocks_cbcDecBlocks h, joinBlocks_blocksOf y whole]

end inverse

/-- The first constraint of R8. -/
theorem leftInverse_blockDec_blockEnc (k : Key) : Function.LeftInverse (Config.blockDec k) (Config.blockEnc k) :=
  (Config.cipher k).symm_apply_apply

/-- The second constraint of R8. -/
theorem rightInverse_blockDec_blockEnc (k : Key) : Function.RightInverse (Config.blockDec k) (Config.blockEnc k) :=
  (Config.cipher k).apply_symm_apply

/-- Settles O49: the two laws of the chain, with the two constraints of R8 for the key. -/
theorem chainedBlockRoundTrip : Obligations.ChainedBlockRoundTrip := fun k iv _ _ whole =>
  ⟨cbcDec_cbcEnc (leftInverse_blockDec_blockEnc k) iv whole, cbcEnc_cbcDec (rightInverse_blockDec_blockEnc k) iv whole⟩

/-! ### The two commands (R172, R173) -/

/-- What CBCE and CBCD share: the two checks in their order, and then the output `r`. -/
def chainOutcome (r : List Byte) (s : State) : State :=
  if s.keyv = false then raiseError .noKey (clearOut s)
  else if lengthUnaligned s then raiseError .malformedInput (clearOut s)
  else complete .success (writeOut r (clearOut s))

theorem exec_cbce (s : State) :
    exec .cbce s = .next (chainOutcome (cbcEnc (Config.blockEnc s.key) s.iv (message s)) s) := rfl

theorem exec_cbcd (s : State) :
    exec .cbcd s = .next (chainOutcome (cbcDec (Config.blockDec s.key) s.iv (message s)) s) := rfl

section chainOutcome

variable {s t : State} {r : List Byte}

theorem chainOutcome_noKey (hkey : s.keyv = false) : chainOutcome r s = raiseError .noKey (clearOut s) := if_pos hkey

theorem chainOutcome_malformed (hkey : s.keyv = true) (bad : s.ilen = 0 ∨ s.ilen % 16 ≠ 0) :
    chainOutcome r s = raiseError .malformedInput (clearOut s) := by
  simp [chainOutcome, hkey, (lengthUnaligned_iff s).mpr bad]

theorem chainOutcome_writes (hkey : s.keyv = true) (good : ¬(s.ilen = 0 ∨ s.ilen % 16 ≠ 0)) :
    chainOutcome r s = complete .success (writeOut r (clearOut s)) := by
  simp [chainOutcome, hkey, mt (lengthUnaligned_iff s).mp good]

/-- The three outcomes field by field, for an output as long as the input. -/
theorem chainOutcome_cases (hr : s.ilen % 16 = 0 → r.length = s.ilen) (ht : t = chainOutcome r s) :
    (s.keyv = false →
      t = { s with
            obuf := [], olen := 0, done := true, err := true, ecode := .noKey, estk := s.estk ||| 0b01000#5 }) ∧
    (s.keyv = true → s.ilen = 0 ∨ s.ilen % 16 ≠ 0 →
      t = { s with
            obuf := [], olen := 0, done := true, err := true, ecode := .malformedInput,
            estk := s.estk ||| 0b00010#5 }) ∧
    (s.keyv = true → s.ilen ≠ 0 → s.ilen % 16 = 0 →
      t = { s with obuf := t.obuf, olen := s.ilen, done := true, err := false, ecode := .success } ∧ OutputIs t r) := by
  subst ht
  refine ⟨chainOutcome_noKey, chainOutcome_malformed, fun hkey pos whole => ?_⟩
  rw [chainOutcome_writes hkey (by omega)]
  refine ⟨?frame, outputIs_complete_writeOut _ _ (clearOut_obuf s)⟩
  case frame => simp [complete_success_eq, writeOut, clearOut, hr whole]

end chainOutcome

/-- Settles O50: the shared outcomes, with the encryption, which has the message's length. -/
theorem cbceEncryptsOrReportsWhy : Obligations.CbceEncryptsOrReportsWhy := by
  refine ⟨decode_encode .cbce, fun s => ⟨_, exec_cbce s, chainOutcome_cases (fun whole => ?length) rfl⟩⟩
  case length => rw [length_cbcEnc _ _ _ (by rwa [length_message]), length_message]

/-- Settles O51: the shared outcomes, with the decryption, which has the message's length. -/
theorem cbcdDecryptsOrReportsWhy : Obligations.CbcdDecryptsOrReportsWhy := by
  refine ⟨decode_encode .cbcd, fun s => ⟨_, exec_cbcd s, chainOutcome_cases (fun whole => ?length) rfl⟩⟩
  case length => rw [length_cbcDec _ _ _ (by rwa [length_message]), length_message]

end Sys2Proof.Machine
end

section
/-! The rules of `45_pipeline.md`: the frame (R180), ENCR and DECR (R183, R184), one after the other (R185), and each against
the commands it is made of (R189). -/

namespace Sys2Proof.Machine

/-! ### The frame (R180) -/

/-- The two halves of a draw are the whole draw. -/
theorem drawSalt_append_drawIv (rnd : Key) : (drawSalt rnd).toList ++ (drawIv rnd).toList = rnd.toList := by
  have rest : (rnd.toList.drop 16).length = 16 := by simp
  rw [drawSalt, drawIv, toList_blockOf _ (by simp), toList_blockOf _ rest.ge, List.take_of_length_le rest.le,
    List.take_append_drop]

/-- The header of a string that is long enough to hold one. -/
theorem toList_header {f : List Byte} (long : 32 ≤ f.length) :
    (frameSalt f).toList = f.take 16 ∧ (frameIv f).toList = (f.drop 16).take 16 :=
  ⟨toList_blockOf f (by omega), toList_blockOf (f.drop 16) (by rw [List.length_drop]; omega)⟩

section sealFrame

variable (kdf : List Byte → Block → Key) (enc : Key → Block → Block) (pw : List Byte) (salt iv : Block) (x : List Byte)

theorem length_sealFrame : (sealFrame kdf enc pw salt iv x).length = 32 + x.length + (16 - x.length % 16) := by
  rw [sealFrame, List.length_append, List.length_append, Vector.length_toList, Vector.length_toList,
    length_cbcEnc _ _ _ (pad16_whole_blocks x).1, length_pad16]
  omega

@[simp] theorem frameSalt_sealFrame : frameSalt (sealFrame kdf enc pw salt iv x) = salt := by
  rw [frameSalt, sealFrame, List.append_assoc, blockOf_toList_append]

@[simp] theorem frameIv_sealFrame : frameIv (sealFrame kdf enc pw salt iv x) = iv := by
  rw [frameIv, sealFrame, List.append_assoc, List.drop_left' (by simp), blockOf_toList_append]

@[simp] theorem frameBody_sealFrame :
    frameBody (sealFrame kdf enc pw salt iv x) = cbcEnc (enc (kdf pw salt)) iv (pad16 x) :=
  List.drop_left' (by simp)

/-- Opening takes the salt and the IV of the header, so it derives the key of the sealing and inverts its chain. -/
theorem openFrame_sealFrame {dec : Key → Block → Block} (h : ∀ k, Function.LeftInverse (dec k) (enc k)) :
    openFrame kdf dec pw (sealFrame kdf enc pw salt iv x) = pad16 x := by
  rw [openFrame, frameSalt_sealFrame, frameIv_sealFrame, frameBody_sealFrame,
    cbcDec_cbcEnc (h _) iv (pad16_whole_blocks x).1]

end sealFrame

/-! ### What UNPD and DECR share: the judgement of the padding (R163, R184) -/

/-- A stripped string is shorter, since the pad length is at least 1. -/
theorem length_unpad16_le_pred {t r : List Byte} (h : unpad16 t = some r) : r.length ≤ t.length - 1 := by
  obtain ⟨rfl, pos, -⟩ := unpad16_some h
  rw [List.length_take]
  omega

/-- The end of UNPD and of DECR: the padding of `x` is judged, and what is before it becomes the output. -/
def unpadOutcome (x : List Byte) (s : State) : State :=
  match unpad16 x with
  | none => raiseError .invalidPadding s
  | some r => complete .success (writeOut r s)

section unpadOutcome

variable (x : List Byte) (s : State)

theorem unpadOutcome_none {x : List Byte} (h : unpad16 x = none) : unpadOutcome x s = raiseError .invalidPadding s := by
  simp [unpadOutcome, h]

theorem unpadOutcome_some {x r : List Byte} (h : unpad16 x = some r) :
    unpadOutcome x s = complete .success (writeOut r s) := by
  simp [unpadOutcome, h]

@[simp] theorem unpadOutcome_salt : (unpadOutcome x s).salt = s.salt := by
  unfold unpadOutcome; split <;> rfl
@[simp] theorem unpadOutcome_iv : (unpadOutcome x s).iv = s.iv := by
  unfold unpadOutcome; split <;> rfl
@[simp] theorem unpadOutcome_keyv : (unpadOutcome x s).keyv = s.keyv := by
  unfold unpadOutcome; split <;> rfl

/-- What the host sees of the outcome depends on the string and the earlier output alone. -/
theorem unpadOutcome_congr {s t : State} (hobuf : s.obuf = t.obuf) (holen : s.olen = t.olen) :
    output (unpadOutcome x s) = output (unpadOutcome x t) ∧ (unpadOutcome x s).olen = (unpadOutcome x t).olen ∧
      (unpadOutcome x s).err = (unpadOutcome x t).err ∧ (unpadOutcome x s).ecode = (unpadOutcome x t).ecode := by
  cases h : unpad16 x with
  | none =>
    rw [unpadOutcome_none s h, unpadOutcome_none t h]
    exact ⟨output_congr hobuf holen, holen, rfl, rfl⟩
  | some r =>
    rw [unpadOutcome_some s h, unpadOutcome_some t h]
    exact ⟨output_congr (by simp [hobuf]) rfl, rfl, rfl, rfl⟩

end unpadOutcome

theorem exec_unpd_aligned {s : State} (good : ¬(s.ilen = 0 ∨ s.ilen % 16 ≠ 0)) :
    exec .unpd s = .next (unpadOutcome (message s) (clearOut s)) :=
  congrArg Host.Outcome.next (if_neg (mt (lengthUnaligned_iff s).mp good))

/-! ### ENCR (R183) -/

/-- The frame ENCR makes of the message, with the two halves of the next draw. -/
def sealedMessage (s : State) : List Byte :=
  sealFrame (Config.kdf s.cfg.iter) Config.blockEnc (password s) (drawSalt (nextDraw s)) (drawIv (nextDraw s))
    (message s)

theorem sealedMessage_eq (s : State) :
    sealedMessage s =
      (drawSalt (nextDraw s)).toList ++ (drawIv (nextDraw s)).toList ++
        cbcEnc (Config.blockEnc (Config.kdf s.cfg.iter (password s) (drawSalt (nextDraw s)))) (drawIv (nextDraw s))
          (pad16 (message s)) := rfl

theorem length_sealedMessage (s : State) : (sealedMessage s).length = 32 + s.ilen + (16 - s.ilen % 16) := by
  rw [sealedMessage, length_sealFrame, length_message]

/-- What ENCR has written beside the output when it completes: the halves of the draw in SALT and IV, no key. -/
def drawLoaded (s : State) : State :=
  dropKey (loadSaltIv (drawSalt (nextDraw s)) (drawIv (nextDraw s)) (countDraw (clearOut s)))

theorem drawLoaded_eq (s : State) :
    drawLoaded s =
      { s with
        salt := drawSalt (nextDraw s), iv := drawIv (nextDraw s), key := zeroKey, keyv := false, obuf := [], olen := 0,
        draws := s.draws + 1 } := rfl

@[simp] theorem drawLoaded_salt (s : State) : (drawLoaded s).salt = drawSalt (nextDraw s) := by rw [drawLoaded_eq]
@[simp] theorem drawLoaded_iv (s : State) : (drawLoaded s).iv = drawIv (nextDraw s) := by rw [drawLoaded_eq]
@[simp] theorem drawLoaded_keyv (s : State) : (drawLoaded s).keyv = false := by rw [drawLoaded_eq]
@[simp] theorem drawLoaded_obuf (s : State) : (drawLoaded s).obuf = [] := by rw [drawLoaded_eq]
@[simp] theorem drawLoaded_ibuf (s : State) : (drawLoaded s).ibuf = s.ibuf := by rw [drawLoaded_eq]
@[simp] theorem drawLoaded_pbuf (s : State) : (drawLoaded s).pbuf = s.pbuf := by rw [drawLoaded_eq]
@[simp] theorem drawLoaded_plen (s : State) : (drawLoaded s).plen = s.plen := by rw [drawLoaded_eq]
@[simp] theorem drawLoaded_cfg (s : State) : (drawLoaded s).cfg = s.cfg := by rw [drawLoaded_eq]

theorem dropKey_writeOut (r : List Byte) (s : State) : dropKey (writeOut r s) = writeOut r (dropKey s) := rfl

theorem exec_encr (s : State) :
    exec .encr s = .next (complete .success (writeOut (sealedMessage s) (drawLoaded s))) := by
  rw [drawLoaded, ← dropKey_writeOut, sealedMessage]
  rfl

/-- Settles O52: the frame over the cleared output, with the halves of the draw in SALT and IV. -/
theorem encrWritesTheFrame : Obligations.EncrWritesTheFrame := by
  refine ⟨decode_encode .encr, fun s => ⟨_, exec_encr s, ?frame, ?draw, ?out, ?olen⟩⟩
  case frame => simp [complete_success_eq, writeOut, drawLoaded_eq]
  case draw => simpa [nextDraw] using drawSalt_append_drawIv (nextDraw s)
  case out =>
    rw [complete_salt, complete_iv, writeOut_salt, writeOut_iv, drawLoaded_salt, drawLoaded_iv]
    exact outputIs_complete_writeOut .success (sealedMessage s) (drawLoaded_obuf s)
  case olen => rw [complete_olen, writeOut_olen, length_sealedMessage]

/-! ### DECR (R184) -/

/-- The padded text of the frame in IBUF, under the key of the password and the frame's salt. -/
def openedText (s : State) : List Byte :=
  openFrame (Config.kdf s.cfg.iter) Config.blockDec (password s) (message s)

/-- What DECR has written when it judges the padding: no output, the frame's header, no key. -/
def headerLoaded (s : State) : State :=
  dropKey (loadSaltIv (frameSalt (message s)) (frameIv (message s)) (clearOut s))

theorem headerLoaded_eq (s : State) :
    headerLoaded s =
      { s with
        salt := frameSalt (message s), iv := frameIv (message s), key := zeroKey, keyv := false, obuf := [],
        olen := 0 } := rfl

@[simp] theorem headerLoaded_salt (s : State) : (headerLoaded s).salt = frameSalt (message s) := by rw [headerLoaded_eq]
@[simp] theorem headerLoaded_iv (s : State) : (headerLoaded s).iv = frameIv (message s) := by rw [headerLoaded_eq]
@[simp] theorem headerLoaded_keyv (s : State) : (headerLoaded s).keyv = false := by rw [headerLoaded_eq]
@[simp] theorem headerLoaded_obuf (s : State) : (headerLoaded s).obuf = [] := by rw [headerLoaded_eq]
@[simp] theorem headerLoaded_olen (s : State) : (headerLoaded s).olen = 0 := by rw [headerLoaded_eq]

theorem exec_decr_wellFormed {s : State} (good : ¬(s.ilen ≤ 32 ∨ (s.ilen - 32) % 16 ≠ 0)) :
    exec .decr s = .next (unpadOutcome (openedText s) (headerLoaded s)) :=
  congrArg Host.Outcome.next (if_neg (mt (frameMalformed_iff s).mp good))

theorem openedText_eq (s : State) :
    openedText s =
      cbcDec (Config.blockDec (Config.kdf s.cfg.iter (password s) (frameSalt (message s)))) (frameIv (message s))
        ((message s).drop 32) := rfl

theorem length_openedText {s : State} (whole : (s.ilen - 32) % 16 = 0) : (openedText s).length = s.ilen - 32 := by
  have body : ((message s).drop 32).length = s.ilen - 32 := by simp
  rw [openedText_eq, length_cbcDec _ _ _ (by rwa [body]), body]

/-- Settles O53: the length is judged, then the header is loaded, and then the padding is judged. -/
theorem decrOpensTheFrameOrReportsWhy : Obligations.DecrOpensTheFrameOrReportsWhy := by
  refine ⟨decode_encode .decr, fun s => ?_⟩
  by_cases bad : s.ilen ≤ 32 ∨ (s.ilen - 32) % 16 ≠ 0
  · exact ⟨_, exec_decr_malformed ((frameMalformed_iff s).mpr bad), fun _ => rfl, fun _ _ => by omega⟩
  refine ⟨_, exec_decr_wellFormed bad, fun h => absurd h bad, fun long whole => ?_⟩
  obtain ⟨salt, iv⟩ := toList_header (f := message s) (by rw [length_message]; omega)
  rw [unpadOutcome_salt, unpadOutcome_iv, headerLoaded_salt, headerLoaded_iv]
  refine ⟨salt, iv, ?_⟩
  rw [← openedText_eq]
  rintro x rfl
  refine ⟨fun padding => ?rejects, fun r padding => ?opens⟩
  case rejects =>
    rw [unpadOutcome_none _ padding, headerLoaded_eq]
    rfl
  case opens =>
    have short := length_unpad16_le_pred padding
    rw [length_openedText whole] at short
    rw [unpadOutcome_some _ padding]
    refine ⟨?frame, outputIs_complete_writeOut _ _ (headerLoaded_obuf s), ?olen⟩
    case frame => simp [complete_success_eq, writeOut, headerLoaded_eq]
    case olen => rw [complete_olen, writeOut_olen]; omega

/-! ### The copy of an output (R98) -/

section copy

variable (bytes : List Byte) {s : State}

@[simp] theorem loadInput_cfg : (loadInput bytes s).cfg = s.cfg := rfl
@[simp] theorem loadInput_pbuf : (loadInput bytes s).pbuf = s.pbuf := rfl
@[simp] theorem loadInput_ibuf : (loadInput bytes s).ibuf = Memory.writeBytes s.ibuf 0 bytes := rfl
@[simp] theorem loadInput_keyv : (loadInput bytes s).keyv = s.keyv := rfl
@[simp] theorem loadInput_plen : (loadInput bytes s).plen = s.plen := rfl

theorem message_loadInput (hform : Memory.wf s.ibuf = true) : message (loadInput bytes s) = bytes :=
  Memory.readBytes_writeBytes s.ibuf 0 bytes hform

/-- The copy of an output just written over a cleared one. -/
theorem feedBack_complete_writeOut (c : ErrorCode) (clear : s.obuf = []) :
    feedBack (complete c (writeOut bytes s)) = loadInput bytes (complete c (writeOut bytes s)) := by
  obtain ⟨-, out, -⟩ := outputIs_complete_writeOut c bytes clear
  rw [feedBack, out]

end copy

/-! ### One after the other (R185) -/

/-- DECR on the frame of a message, as ENCR makes it with the same password, strips what ENCR appended. -/
theorem exec_decr_sealFrame {s : State} (salt iv : Block) (x : List Byte)
    (h : message s = sealFrame (Config.kdf s.cfg.iter) Config.blockEnc (password s) salt iv x) :
    exec .decr s = .next (complete .success (writeOut x (headerLoaded s))) := by
  have opened : openedText s = pad16 x := by
    rw [openedText, h]
    exact openFrame_sealFrame _ _ _ _ _ _ leftInverse_blockDec_blockEnc
  have wellFormed : ¬(s.ilen ≤ 32 ∨ (s.ilen - 32) % 16 ≠ 0) := by
    rw [← length_message, h, length_sealFrame]
    omega
  rw [exec_decr_wellFormed wellFormed, opened, unpadOutcome_some _ (unpadInvertsPad.1 x)]

/-- Settles O54: DECR finds the frame of ENCR, and the password and ITER it was made with. -/
theorem encryptDecryptRoundTrip : Obligations.EncryptDecryptRoundTrip := by
  intro s hform
  refine ⟨_, _, exec_encr s, complete_ecode ..,
    exec_decr_sealFrame (drawSalt (nextDraw s)) (drawIv (nextDraw s)) (message s) ?frame, complete_ecode ..,
    outputIs_complete_writeOut _ _ (headerLoaded_obuf _)⟩
  case frame =>
    rw [feedBack_complete_writeOut _ _ (drawLoaded_obuf s), message_loadInput _ (by simpa using hform)]
    simp [sealedMessage, password]

/-! ### Against the commands they are made of (R189) -/

/-- What KDRV leaves when it is run with the given salt and IV in SALT and IV. -/
def keyLoaded (salt iv : Block) (s : State) : State :=
  complete .success (loadKey (Config.kdf s.cfg.iter (password s) salt) (loadSaltIv salt iv s))

theorem exec_kdrv_saltIv (salt iv : Block) (s : State) :
    exec .kdrv { s with salt := salt, iv := iv } = .next (keyLoaded salt iv s) := rfl

section keyLoaded

variable (salt iv : Block) (s : State)

@[simp] theorem keyLoaded_key : (keyLoaded salt iv s).key = Config.kdf s.cfg.iter (password s) salt := by simp [keyLoaded]
@[simp] theorem keyLoaded_keyv : (keyLoaded salt iv s).keyv = true := by simp [keyLoaded]
@[simp] theorem keyLoaded_iv : (keyLoaded salt iv s).iv = iv := by simp [keyLoaded]
@[simp] theorem keyLoaded_ibuf : (keyLoaded salt iv s).ibuf = s.ibuf := by simp [keyLoaded]
@[simp] theorem message_keyLoaded : message (keyLoaded salt iv s) = message s := by simp [keyLoaded, message]

end keyLoaded

section primitive

variable {a : State} {y : List Byte} (hform : Memory.wf a.ibuf = true) (hkey : a.keyv = true)
  (aligned : ¬(y.length = 0 ∨ y.length % 16 ≠ 0))

include hform aligned in
theorem exec_unpd_loadInput : exec .unpd (loadInput y a) = .next (unpadOutcome y (clearOut (loadInput y a))) := by
  rw [exec_unpd_aligned aligned, message_loadInput y hform]

include hform hkey aligned in
theorem exec_cbce_loadInput :
    exec .cbce (loadInput y a) =
      .next (complete .success (writeOut (cbcEnc (Config.blockEnc a.key) a.iv y) (clearOut (loadInput y a)))) := by
  rw [exec_cbce, message_loadInput y hform]
  exact congrArg Host.Outcome.next (chainOutcome_writes hkey aligned)

include hform hkey aligned in
theorem exec_cbcd_loadInput :
    exec .cbcd (loadInput y a) =
      .next (complete .success (writeOut (cbcDec (Config.blockDec a.key) a.iv y) (clearOut (loadInput y a)))) := by
  rw [exec_cbcd, message_loadInput y hform]
  exact congrArg Host.Outcome.next (chainOutcome_writes hkey aligned)

include hform hkey in
/-- PAD, copy, CBCE with a key: the padded message has whole blocks, so CBCE encrypts it. -/
theorem exec_pad_cbce :
    ∃ b c, exec .pad a = .next b ∧ exec .cbce (feedBack b) = .next c ∧
      OutputIs c (cbcEnc (Config.blockEnc a.key) a.iv (pad16 (message a))) ∧
        c.err = false ∧ c.ecode = .success ∧ c.keyv = true := by
  have aligned : ¬((pad16 (message a)).length = 0 ∨ (pad16 (message a)).length % 16 ≠ 0) := by
    have shape := pad16_whole_blocks (message a)
    omega
  have copy := feedBack_complete_writeOut (pad16 (message a)) .success (clearOut_obuf a)
  have cbce := (congrArg (exec .cbce) copy).trans (exec_cbce_loadInput hform hkey aligned)
  exact ⟨_, _, exec_pad a, cbce, outputIs_complete_writeOut _ _ (clearOut_obuf _), complete_err .., complete_ecode ..,
    by simpa using hkey⟩

include hform hkey aligned in
/-- CBCD on whole blocks with a key, copy, UNPD: both length checks pass, and the decrypted text is judged. -/
theorem exec_cbcd_unpd :
    ∃ b d, exec .cbcd (loadInput y a) = .next b ∧
      exec .unpd (feedBack b) = .next (unpadOutcome (cbcDec (Config.blockDec a.key) a.iv y) d) ∧
        d.obuf = [] ∧ d.olen = 0 ∧ d.keyv = true := by
  have copy :=
    feedBack_complete_writeOut (cbcDec (Config.blockDec a.key) a.iv y) .success (clearOut_obuf (loadInput y a))
  have unpd := (congrArg (exec .unpd) copy).trans
    (exec_unpd_loadInput (Memory.wf_writeBytes _ _ _ hform) (by rwa [length_cbcDec _ _ _ (by omega)]))
  exact ⟨_, _, exec_cbcd_loadInput hform hkey aligned, unpd, clearOut_obuf _, clearOut_olen _, by simpa using hkey⟩

end primitive

section sequence

variable {s : State} (hform : Memory.wf s.ibuf = true) (salt iv : Block)
include hform

/-- KDRV, PAD, copy, CBCE: success, with the ciphertext of a frame as output, and a key. -/
theorem exec_kdrv_pad_cbce :
    ∃ a b c, exec .kdrv { s with salt := salt, iv := iv } = .next a ∧ exec .pad a = .next b ∧
      exec .cbce (feedBack b) = .next c ∧
        OutputIs c (cbcEnc (Config.blockEnc (Config.kdf s.cfg.iter (password s) salt)) iv (pad16 (message s))) ∧
          c.err = false ∧ c.ecode = .success ∧ c.keyv = true := by
  obtain ⟨b, c, run⟩ := exec_pad_cbce (a := keyLoaded salt iv s) (by simpa using hform) (by simp)
  exact ⟨_, b, c, exec_kdrv_saltIv salt iv s, by simpa using run⟩

/-- KDRV, CBCD on whole blocks, copy, UNPD: the decrypted text's padding is judged over an empty output, with a key. -/
theorem exec_kdrv_cbcd_unpd {y : List Byte} (aligned : ¬(y.length = 0 ∨ y.length % 16 ≠ 0)) :
    ∃ a b d, exec .kdrv { s with salt := salt, iv := iv } = .next a ∧ exec .cbcd (loadInput y a) = .next b ∧
      exec .unpd (feedBack b) =
        .next (unpadOutcome (cbcDec (Config.blockDec (Config.kdf s.cfg.iter (password s) salt)) iv y) d) ∧
          d.obuf = [] ∧ d.olen = 0 ∧ d.keyv = true := by
  obtain ⟨b, d, run⟩ := exec_cbcd_unpd (a := keyLoaded salt iv s) (by simpa using hform) (by simp) aligned
  exact ⟨_, b, d, exec_kdrv_saltIv salt iv s, by simpa using run⟩

end sequence

/-- Settles O55: each sequence runs with the key and the IV of the one command, on the same string. -/
theorem pipelineEqualsPrimitiveCommands : Obligations.PipelineEqualsPrimitiveCommands := by
  refine fun s hform => ⟨?encr, fun long whole => ?decr⟩
  case encr =>
    obtain ⟨a, b, c, kdrv, pad, cbce, ⟨holen, hout, -⟩, herr, hcode, hkeyv⟩ :=
      exec_kdrv_pad_cbce hform (drawSalt (nextDraw s)) (drawIv (nextDraw s))
    obtain ⟨-, sealed, -⟩ := outputIs_complete_writeOut .success (sealedMessage s) (drawLoaded_obuf s)
    refine ⟨_, a, b, c, exec_encr s, by simpa using kdrv, pad, cbce, ?draw, ?out, ?olen, by simp [herr], by simp [hcode],
      hkeyv, by simp⟩
    case draw => simpa [nextDraw] using drawSalt_append_drawIv (nextDraw s)
    case out => rw [sealed, hout, sealedMessage_eq]; simp
    case olen => simp [holen, sealedMessage_eq, ← Nat.add_assoc]
  case decr =>
    obtain ⟨a, b, d, kdrv, cbcd, unpd, hobuf, holen, hkeyv⟩ :=
      exec_kdrv_cbcd_unpd hform (frameSalt (message s)) (frameIv (message s)) (y := (message s).drop 32)
        (by rw [List.length_drop, length_message]; omega)
    obtain ⟨salt, iv⟩ := toList_header (f := message s) (by rw [length_message]; omega)
    obtain ⟨out, olen, err, ecode⟩ := unpadOutcome_congr (openedText s)
      ((headerLoaded_obuf s).trans hobuf.symm) ((headerLoaded_olen s).trans holen.symm)
    rw [← openedText_eq] at unpd
    exact ⟨_, a, b, _, exec_decr_wellFormed (by omega), by simpa using kdrv, cbcd, unpd, by simpa using salt,
      by simpa using iv, out, olen, err, ecode, by simpa using hkeyv, by simp⟩

end Sys2Proof.Machine
end

section
/-! The rules of `46_control.md`: NOP (R200) and CLR (R201), each the completion with success of a known state. -/

namespace Sys2Proof.Machine

theorem exec_nop (s : State) : exec .nop s = .next (complete .success s) := rfl

theorem exec_clr (s : State) :
    exec .clr s = .next (complete .success (clearBuffers (loadSaltIv zeroBlock zeroBlock (dropKey s)))) := rfl

/-- Settles O56: the word is NOP's, and completing with success sets no sticky bit. -/
theorem nopOnlyCompletes : Obligations.NopOnlyCompletes := by
  refine ⟨decode_encode .nop, fun s => ?_⟩
  rw [exec_nop, complete_success_eq]

/-- Settles O57: the three clearings write the fields of R201 with zeros, and completing with success sets no sticky bit. -/
theorem clrZeroizesThePipeline : Obligations.ClrZeroizesThePipeline := by
  refine ⟨decode_encode .clr, fun s => ?_⟩
  rw [exec_clr, complete_success_eq]
  simp only [clearBuffers, loadSaltIv, dropKey, zeroBlock, zeroKey]

end Sys2Proof.Machine
end

section
/-! The rules of `60_exceptions.md`: the one completion of every CMD write (R216), what a failed command leaves in the output
(R217), and the word that is no command (R219). -/

namespace Sys2Proof.Machine

/-! ### Complete(c) (R216) -/

theorem complete_eq (c : ErrorCode) (s : State) :
    complete c s =
      { s with done := true, err := decide (c ≠ .success), ecode := c, estk := (complete c s).estk } := by
  rw [← isError_eq]
  rfl

theorem getLsbD_complete_estk (c : ErrorCode) (s : State) {j : Nat} (hj : j < 5) :
    (complete c s).estk.getLsbD j = (s.estk.getLsbD j || decide ((errorNumber c).toNat = j + 1)) := by
  rw [complete_estk, BitVec.getLsbD_or, getLsbD_stickyBit c j hj]

/-- A word written to CMD, a command or not, completes a state with the four status fields it found. -/
theorem runWord_completes_status (w : Word) (s : State) :
    ∃ c u, runWord w s = .next (complete c u) ∧ u.done = s.done ∧ u.err = s.err ∧ u.ecode = s.ecode ∧ u.estk = s.estk := by
  obtain ⟨i, -, hrun⟩ | ⟨-, hrun⟩ := runWord_cases w s
  · obtain ⟨c, u, hexec, frame⟩ := exec_completes i s
    exact ⟨c, u, hrun.trans hexec, frame.done, frame.err, frame.ecode, frame.estk⟩
  · exact ⟨.illegalCommand, s, hrun, rfl, rfl, rfl, rfl⟩

/-- Settles O7: the four fields a completion writes, and the one completion of every word. -/
theorem completeWritesStatusAndSticky : Obligations.CompleteWritesStatusAndSticky :=
  ⟨fun c s => ⟨complete_eq c s, fun _ => getLsbD_complete_estk c s⟩, runWord_completes_status⟩

/-! ### The output of a failed command (R100, R217) -/

/-- A buffer-producing command clears the output first and writes it only where it succeeds. The cases split on what the command
judges, each error before the success. -/
theorem exec_success_or_outputCleared {i : Instr} (hi : isBufferProducing i = true) (s : State) :
    ∃ c u, exec i s = .next (complete c u) ∧ (c = .success ∨ u.obuf = [] ∧ u.olen = 0) := by
  cases i
  case nop | mdet | minv | kdrv | clr => cases hi
  case henc | pad | encr => exact ⟨.success, _, rfl, .inl rfl⟩
  case hdec | unpd | cbce | cbcd | decr =>
    simp only [exec, execHdec, execUnpd, execCbce, execCbcd, execDecr]
    split
    · exact ⟨_, _, rfl, .inr (by simp)⟩
    · split
      · exact ⟨_, _, rfl, .inr (by simp)⟩
      · exact ⟨.success, _, rfl, .inl rfl⟩

/-- Settles O11: a code that is not success leaves the output as the command cleared it. -/
theorem failedCommandLeavesNoOutput : Obligations.FailedCommandLeavesNoOutput := by
  intro i s t hi ht failed
  obtain ⟨c, u, hexec, hout⟩ := exec_success_or_outputCleared hi s
  obtain rfl := Host.Outcome.next.inj (hexec.symm.trans ht)
  obtain ⟨hobuf, holen⟩ := hout.resolve_left failed
  exact ⟨holen, fun o => by rw [complete_obuf, hobuf, Memory.read_nil]⟩

/-! ### The word that is no command (R93, R219) -/

theorem runWord_of_ne_encode {w : Word} (h : ∀ i, w ≠ encode i) (s : State) :
    runWord w s = .next (complete .illegalCommand s) := by
  obtain ⟨i, hdec, -⟩ | ⟨-, hrun⟩ := runWord_cases w s
  · exact absurd (eq_encode_of_decode hdec) (h i)
  · exact hrun

/-- Settles O6: the step is the CMD write, which completes with code 5 and answers OK. -/
theorem illegalWordOnlyCompletesWithFive : Obligations.IllegalWordOnlyCompletesWithFive := fun _ w _ hinbox hne =>
  (step_of_inbox_bus hinbox).trans (runTxn_cmd w _ _ (runWord_of_ne_encode hne _))

end Sys2Proof.Machine
end

section
/-! The rules of `70_reset_and_hazards.md`: a step delivers one host event (R240, R241, R253), and what it leaves on the host's
side of the state. -/

namespace Sys2Proof.Machine

/-! ### The delivery of an event -/

theorem step_of_inbox_reset {s : State} {rest : List Event} (h : s.inbox = .reset :: rest) :
    step s = .next (resetBlock { s with inbox := rest }) := by
  simp only [step, h, runEvent]

theorem step_of_inbox_nil {s : State} (h : s.inbox = []) : step s = .next s := by
  simp only [step, h]

/-- Settles O2: one clause for each form of the inbox. -/
theorem stepDeliversNextEvent : Obligations.StepDeliversNextEvent := fun _ _ =>
  ⟨fun _ => step_of_inbox_bus, step_of_inbox_reset, step_of_inbox_nil⟩

/-! ### The host's side of the state (R21, R253)

The parameters, the waiting events, the replies and the count of draws are no state of the block. Within a transaction only ENCR
touches one of them: it draws once (R186). -/

/-- From `s` to `u` the host's side is as it was, but that the random source has answered `n` times more. -/
structure HostFrame (n : Nat) (s u : State) : Prop where
  cfg : u.cfg = s.cfg
  inbox : u.inbox = s.inbox
  replies : u.replies = s.replies
  draws : u.draws = s.draws + n

theorem hostFrame_refl (s : State) : HostFrame 0 s s := ⟨rfl, rfl, rfl, rfl⟩

theorem hostFrame_complete (c : ErrorCode) (s : State) : HostFrame 0 s (complete c s) := ⟨rfl, rfl, rfl, rfl⟩

/-- ENCR draws once, and no other command draws. The cases split on what the command judges. -/
theorem exec_draws {i : Instr} {s t : State} (ht : exec i s = .next t) :
    t.draws = s.draws + if i = .encr then 1 else 0 := by
  cases i <;> cases ht
  case nop | mdet | henc | kdrv | pad | encr | clr => rfl
  case minv =>
    simp only [reduceCtorEq, if_false]
    split <;> simp
  case hdec | unpd | cbce | cbcd | decr =>
    simp only [reduceCtorEq, if_false]
    split
    · simp
    · split <;> simp

theorem exec_hostFrame {i : Instr} {s t : State} (ht : exec i s = .next t) :
    HostFrame (if i = .encr then 1 else 0) s t := by
  obtain ⟨c, u, hexec, frame⟩ := exec_completes i s
  have draws := exec_draws ht
  obtain rfl := Host.Outcome.next.inj (hexec.symm.trans ht)
  exact ⟨frame.cfg, frame.inbox, frame.replies, draws⟩

theorem runWord_hostFrame {w : Word} {s t : State} (ht : runWord w s = .next t) :
    HostFrame (if w = encode .encr then 1 else 0) s t := by
  obtain ⟨i, hdec, hrun⟩ | ⟨⟨e, hdec⟩, hrun⟩ := runWord_cases w s <;> rw [hrun] at ht
  · have same : w = encode .encr ↔ i = .encr := by
      rw [eq_encode_of_decode hdec]
      exact encode_injective.eq_iff
    simpa only [same] using exec_hostFrame ht
  · have other : w ≠ encode .encr := fun hw => by simp [hw] at hdec
    cases ht
    rw [if_neg other]
    exact hostFrame_complete _ s

theorem busWrite32_hostFrame {a : Addr} {v : Word} {s t : State} (ht : busWrite32 a v s = some t) : HostFrame 0 s t := by
  obtain ⟨_, rfl⟩ | ⟨_, _, rfl⟩ | ⟨_, _, rfl⟩ | ⟨_, rfl⟩ | rfl := busWrite32_some ht <;> exact ⟨rfl, rfl, rfl, rfl⟩

theorem busWrite8_hostFrame {a : Addr} {v : Byte} {s t : State} (ht : busWrite8 a v s = some t) : HostFrame 0 s t := by
  obtain ⟨_, rfl⟩ | ⟨_, rfl⟩ | ⟨_, _, rfl⟩ | ⟨_, _, rfl⟩ | rfl := busWrite8_some ht <;> exact ⟨rfl, rfl, rfl, rfl⟩

/-- Every transaction ends with one reply to a state within the frame, and draws only where it writes ENCR to CMD. -/
theorem runTxn_answers (tx : Txn) (s : State) :
    ∃ r u, runTxn tx s = .next (answer r u) ∧
      HostFrame (if tx = .write32 cmdAddr (encode .encr) then 1 else 0) s u := by
  obtain ⟨w, u, rfl, hu, hrun⟩ | ⟨a, v, u, ha, rfl, hu, hrun⟩ | ⟨a, v, u, rfl, hu, hrun⟩ | ⟨hcmd, r, hrun⟩ :=
    runTxn_cases tx s
  · exact ⟨.ok, u, hrun, by simpa using runWord_hostFrame hu⟩
  · exact ⟨.ok, u, hrun, by simpa [ha] using busWrite32_hostFrame hu⟩
  · exact ⟨.ok, u, hrun, by simpa using busWrite8_hostFrame hu⟩
  · exact ⟨r, s, hrun, by simpa [hcmd] using hostFrame_refl s⟩

/-- Settles O3: a step does nothing, resets, or performs one transaction, which answers once within the frame. -/
theorem everyStepAnswersAndConsumesOneEvent : Obligations.EveryStepAnswersAndConsumesOneEvent := by
  intro s
  obtain ⟨hinbox, hstep⟩ | ⟨rest, hinbox, hstep⟩ | ⟨tx, rest, hinbox, hstep⟩ := step_cases s
  · exact ⟨s, hstep, by simp [hinbox]⟩
  · exact ⟨_, hstep, by simp [hinbox, commandEvent]⟩
  · obtain ⟨r, u, hrun, frame⟩ := runTxn_answers tx { s with inbox := rest }
    refine ⟨answer r u, hstep.trans hrun, ?inbox, frame.cfg, fun _ _ _ => ⟨r, ?reply⟩,
      fun noTxn => absurd hinbox (noTxn tx rest), ?draws⟩
    case inbox => rw [answer_inbox, frame.inbox, hinbox, List.tail_cons]
    case reply => rw [answer_replies, frame.replies]
    case draws => simpa [hinbox, commandEvent] using frame.draws

end Sys2Proof.Machine
end
